-- ==== Sys2Proof/Word.lean ====
section
/-! DEFINITION. The word types of QACT: 32-bit registers and data words, and bytes (spec/00_scope.md R7). -/

namespace Sys2Proof

/-- A register, a data word or a byte address: 32 bits (R7). -/
abbrev Word := BitVec 32

/-- The smallest unit of the data window (R41). -/
abbrev Byte := BitVec 8

end Sys2Proof
end

