-- ==== Sys2Proof/Config.lean ====
section
/-! DEFINITION. What the platform fixes (00_scope.md R8) and the free values of the spec
(93_implementation_defined.md U12 to U18). A constant declared opaque here has no body: no proof can see its value. -/

namespace Sys2Proof

/-- The three open parameters of R8, byte addresses and a size. -/
structure Platform where
  /-- REG_BASE: byte address of the 256-byte register block. -/
  regBase : Nat
  /-- MEM_BASE: lowest byte address of the data window. -/
  memBase : Nat
  /-- MEM_SIZE: size in bytes of the data window. -/
  memSize : Nat
  deriving DecidableEq, Repr, Inhabited

/-- The constraints of R8. That REG_BASE is a 32-bit byte address is R7; an empty window overlaps nothing
(DEDUCED, log 18). -/
abbrev Platform.Admissible (p : Platform) : Prop :=
  p.regBase % 256 = 0 ∧ p.regBase < 2 ^ 32 ∧ 1 ≤ p.memBase ∧ p.memBase + p.memSize ≤ 2 ^ 32 ∧
    (p.memSize = 0 ∨ p.memBase + p.memSize ≤ p.regBase ∨ p.regBase + 256 ≤ p.memBase)

namespace Config

/-- Free value: the parameters of R8 as the platform gave them (U18). -/
opaque rawPlatform : Platform

/-- Free value: the byte of the k-th draw of a byte (U12, U13, U14, U16). -/
opaque freeByte : Nat → Byte

/-- Free value: the word of the k-th draw of a word (U13, U17). -/
opaque freeWord : Nat → Word

/-- The platform of State.reset: any admissible one. What rawPlatform is cannot be seen, so all that is known of
this value is that it is admissible (log 1). -/
def platform : Platform :=
  if rawPlatform.Admissible then rawPlatform else ⟨0x40000000, 0x1000, 0x1000⟩

end Config

end Sys2Proof
end

