-- ==== Sys2Proof/Machine/State.lean ====
section
/-! DEFINITION. The state of QACT as plain data (10_state.md R16, R35, R40), the outside world's events
(R18, 60_exceptions.md R114), the reasons a step can stop, and the state after reset (R39). -/

namespace Sys2Proof.Machine

/-- The error codes of R105. Codes 9 to 15 do not exist (R27). -/
inductive ErrCode where
  /-- 0: no error. -/
  | noError
  /-- 1: undefined OP, reserved bit, or OFMT on an operation without a format. -/
  | illegal
  /-- 2: OFMT = 3 on an operation with a format. -/
  | fmt
  /-- 3: s32(LEN) is not positive. -/
  | len
  /-- 4: SRC or DST is the null address. -/
  | null
  /-- 5: SRC or DST is misaligned. -/
  | align
  /-- 6: a buffer leaves the data window. -/
  | range
  /-- 7 (ALIAS): the buffers overlap. -/
  | aliased
  /-- 8: shift count outside 0 to 31. -/
  | shamt
  deriving DecidableEq, Repr, Inhabited

/-- The fields of STATUS (R22); the bits R22 reads as 0 have no storage. -/
structure Status where
  /-- STATUS[0] (R23). -/
  busy : Bool
  /-- STATUS[1] (R24). -/
  done : Bool
  /-- STATUS[2] (R25). -/
  err : Bool
  /-- STATUS[3] (R26). -/
  lost : Bool
  /-- STATUS[11:8] (R27). -/
  code : ErrCode
  deriving DecidableEq, Repr, Inhabited

/-- The latched command record L (R35). -/
structure Latched where
  cmd : Word
  src : Word
  dst : Word
  len : Word
  opa : Word
  opb : Word
  deriving DecidableEq, Repr, Inhabited

/-- The registers of R20 by name. -/
inductive Reg where
  | cmd | status | src | dst | len | opa | opb | res0 | res1 | res2
  | const0 | const1 | const2 | const3 | const4 | const5 | const6 | const7
  deriving DecidableEq, Repr, Inhabited

/-- One access of the host on the 32-bit byte address space (R18): n bytes from addr. -/
inductive HostAction where
  /-- Read n bytes from addr: a register (R19) or the data window (R10 MemRead). -/
  | read (addr : Word) (n : Nat)
  /-- Write the low 8n bits of v at addr: a register (R19) or the data window (R10 MemWrite). -/
  | write (addr : Word) (n : Nat) (v : Nat)
  deriving DecidableEq, Repr, Inhabited

/-- What happens next outside and inside QACT (R18, R36, R115). -/
inductive Event where
  /-- The host makes one access. -/
  | host (a : HostAction)
  /-- The engine is given its turn (R36 step 2). -/
  | engine
  /-- The platform asserts reset (R115). -/
  | reset
  deriving DecidableEq, Repr, Inhabited

/-- What the host gets back from a read (R114). -/
inductive Reply where
  /-- The value of a register. -/
  | reg (v : Word)
  /-- n bytes of the data window as an unsigned integer, little-endian (R10). -/
  | mem (n : Nat) (v : Nat)
  deriving DecidableEq, Repr, Inhabited

/-- The bytes of the data window (R40): address and byte, in the one canonical form of Memory.wf. -/
abbrev Memory := List Host.Cell

/-- All the state of QACT (R16, R35, R40), and the model's own last five fields. -/
structure State where
  /-- REG_BASE, MEM_BASE, MEM_SIZE: configuration, written by no step (R8, R17; DESIGN CHOICE, log 1). -/
  platform : Platform
  /-- CMD (R21). -/
  cmd : Word
  /-- STATUS (R22). -/
  status : Status
  /-- SRC (R28). -/
  src : Word
  /-- DST (R29). -/
  dst : Word
  /-- LEN (R30). -/
  len : Word
  /-- OPA (R31). -/
  opa : Word
  /-- OPB (R31). -/
  opb : Word
  /-- RES0 (R32). -/
  res0 : Word
  /-- RES1 (R32). -/
  res1 : Word
  /-- RES2 (R32). -/
  res2 : Word
  /-- The latched command record L (R35). -/
  latched : Latched
  /-- The data window (R40). -/
  mem : Memory
  /-- The events to come, the next one first (R18, R36, R120; DESIGN CHOICE, log 2). -/
  inputs : List Event
  /-- What the host got back, newest first (R114; DESIGN CHOICE, log 14). -/
  replies : List Reply
  /-- How many free values have been drawn (DESIGN CHOICE, log 5). -/
  draws : Nat
  /-- The host has written a byte of the running command's IN or OUT (R51; DESIGN CHOICE, log 6). -/
  disturbed : Bool
  deriving DecidableEq, Repr, Inhabited

/-- QACT has no trap and no fatal failure mode (R109): every command error is a code in STATUS (R105), and no
step stops with a fault. So this type has no constructor. -/
inductive Fault where
  deriving DecidableEq, Repr

/-- Why a step has no meaning. -/
inductive Refusal where
  /-- Raised by exec for an instruction without a meaning (none is left in this model). Safe. -/
  | notModelled (mnemonic : String)
  /-- Raised by a host access to the register block that is not one naturally aligned 32-bit access (R19, U10:
  "the model refuses it"). Safe. -/
  | registerAccess
  /-- Raised by a host access to an address outside the register block and the data window, "not part of QACT"
  (R42; log 10). Safe. -/
  | outsideQact
  deriving DecidableEq, Repr

/-- Replace the schedule of events. -/
def State.setInputs (s : State) (es : List Event) : State := { s with inputs := es }

/-- Write CMD. -/
def State.setCmd (s : State) (v : Word) : State := { s with cmd := v }

/-- Write STATUS. -/
def State.setStatus (s : State) (st : Status) : State := { s with status := st }

/-- Write SRC. -/
def State.setSrc (s : State) (v : Word) : State := { s with src := v }

/-- Write DST. -/
def State.setDst (s : State) (v : Word) : State := { s with dst := v }

/-- Write LEN. -/
def State.setLen (s : State) (v : Word) : State := { s with len := v }

/-- Write OPA. -/
def State.setOpa (s : State) (v : Word) : State := { s with opa := v }

/-- Write OPB. -/
def State.setOpb (s : State) (v : Word) : State := { s with opb := v }

/-- Write RES0. -/
def State.setRes0 (s : State) (v : Word) : State := { s with res0 := v }

/-- Write RES1. -/
def State.setRes1 (s : State) (v : Word) : State := { s with res1 := v }

/-- Write RES2. -/
def State.setRes2 (s : State) (v : Word) : State := { s with res2 := v }

/-- Replace the latched record. -/
def State.setLatched (s : State) (l : Latched) : State := { s with latched := l }

/-- Replace the data window's contents. -/
def State.setMem (s : State) (m : Memory) : State := { s with mem := m }

/-- Give the host the answer of a read. -/
def State.pushReply (s : State) (r : Reply) : State := { s with replies := r :: s.replies }

/-- Advance the counter of free values by n. -/
def State.addDraws (s : State) (n : Nat) : State := { s with draws := s.draws + n }

/-- Record whether the running command's buffers were written by the host. -/
def State.setDisturbed (s : State) (b : Bool) : State := { s with disturbed := b }

/-- A latched record of six free words, draws k to k + 5: "unspecified" (R39, U17; log 9). -/
def Latched.unspecified (k : Nat) : Latched :=
  ⟨Config.freeWord k, Config.freeWord (k + 1), Config.freeWord (k + 2), Config.freeWord (k + 3),
    Config.freeWord (k + 4), Config.freeWord (k + 5)⟩

/-- STATUS after reset (R39). -/
def Status.idle : Status := ⟨false, false, false, false, .noError⟩

/-- QACT right after reset (R39), with nothing scheduled (log 2), no listed byte (log 4) and an unspecified
latched record (log 9), on any admissible platform (log 1). -/
def State.reset : State where
  platform := Config.platform
  cmd := 0
  status := Status.idle
  src := 0
  dst := 0
  len := 0
  opa := 0
  opb := 0
  res0 := 0
  res1 := 0
  res2 := 0
  latched := Latched.unspecified 0
  mem := []
  inputs := []
  replies := []
  draws := 6
  disturbed := false

end Sys2Proof.Machine
end

