-- ==== Sys2Proof/Machine/Flags.lean ====
section
/-! DEFINITION. STATUS: its word, and the three events that change its fields (10_state.md R22 to R27,
60_exceptions.md R105, R107). QACT has no other flag (R38), and saturation sets none (R108). -/

namespace Sys2Proof.Machine

/-- The code of an error (R105). -/
def errNumber : ErrCode → Nat
  | .noError => 0
  | .illegal => 1
  | .fmt => 2
  | .len => 3
  | .null => 4
  | .align => 5
  | .range => 6
  | .aliased => 7
  | .shamt => 8

/-- The 32-bit value a read of STATUS gives (R22): bits 7:4 and 31:12 are 0. -/
def statusWord (st : Status) : Word :=
  BitVec.ofNat 32 (st.busy.toNat + 2 * st.done.toNat + 4 * st.err.toNat + 8 * st.lost.toNat +
    256 * errNumber st.code)

/-- STATUS at a start (R36 step 1). -/
def statusStarted : Status := ⟨true, false, false, false, .noError⟩

/-- STATUS after a CMD write while BUSY (R26). -/
def statusLost (st : Status) : Status := { st with lost := true }

/-- STATUS after completion with code c; LOST is not changed (R107). -/
def statusCompleted (st : Status) (c : ErrCode) : Status :=
  { st with code := c, err := c != .noError, done := true, busy := false }

end Sys2Proof.Machine
end

