-- ==== Sys2Proof/Syntax.lean ====
section
/-! DEFINITION. The commands of QACT: one constructor per row of spec/opcode_table.json (30_encoding.md R57). -/

namespace Sys2Proof

/-- The four codes of the OFMT field, CMD[9:8] (20_memory.md R43, 30_encoding.md R56). -/
inductive OutFmt where
  /-- OFMT = 0: Q0.7, one byte. -/
  | q7
  /-- OFMT = 1: Q0.15, two bytes. -/
  | q15
  /-- OFMT = 2: Q16.15, four bytes. -/
  | q16_15
  /-- OFMT = 3: the reserved row of R43, whose meaning is error FMT. -/
  | reserved
  deriving DecidableEq, Repr, Inhabited

/-- A command: the operation (OP) and, for the operations with an output format, its OFMT (R57). No
command word carries an immediate, a register number or an address (R59). -/
inductive Instr where
  /-- Rounding right shift (R67). -/
  | rshr
  /-- Rounding, saturating conversion of a Q31 value (R68). -/
  | satcvt (f : OutFmt)
  /-- Q31 rounding, saturating multiply (R69). -/
  | mulq31
  /-- Range reduction with K_SIG (R76). -/
  | rredSig
  /-- Range reduction with K_TANH (R77). -/
  | rredTanh
  /-- Horner evaluation of the fixed polynomial (R82). -/
  | poly
  /-- e^(-|x|) through range reduction, polynomial and exponent (R83). -/
  | antilog
  /-- 1/(1+x) by seed and two Newton-Raphson steps (R88). -/
  | recip
  /-- Sigmoid of one value (R92). -/
  | sig1 (f : OutFmt)
  /-- Tanh of one value (R93). -/
  | tanh1 (f : OutFmt)
  /-- Sigmoid over a buffer (R95). -/
  | vsigmoid (f : OutFmt)
  /-- Tanh over a buffer (R96). -/
  | vtanh (f : OutFmt)
  /-- Softmax over a buffer (R103). -/
  | vsoftmax (f : OutFmt)
  deriving DecidableEq, Repr, Inhabited

end Sys2Proof
end

