-- ==== Sys2Proof/WellFormed.lean ====
section
/-! DEFINITION. Which terms of Instr are commands a decoder may answer: the reserved output format is none
(30_encoding.md R56, R58; 20_memory.md R43). -/

namespace Sys2Proof

/-- The output formats a command may select (R43). -/
def OutFmt.wellFormed : OutFmt → Bool
  | .q7 => true
  | .q15 => true
  | .q16_15 => true
  | .reserved => false

/-- A command is well formed when its output format, if it has one, is not the reserved code (R56). -/
def Instr.wellFormed : Instr → Bool
  | .rshr => true
  | .satcvt f => f.wellFormed
  | .mulq31 => true
  | .rredSig => true
  | .rredTanh => true
  | .poly => true
  | .antilog => true
  | .recip => true
  | .sig1 f => f.wellFormed
  | .tanh1 f => f.wellFormed
  | .vsigmoid f => f.wellFormed
  | .vtanh f => f.wellFormed
  | .vsoftmax f => f.wellFormed

end Sys2Proof
end

