-- ==== Sys2Proof/Decode.lean ====
section
/-! DEFINITION. The command word: fields, decoding, encoding and the bridge to the numbering of
spec/opcode_table.json (30_encoding.md R55 to R61). -/

namespace Sys2Proof

/-- What Decode answers (R58): an operation, or one of the two encoding errors by name. -/
inductive Decoded where
  /-- A defined operation with a defined output format. -/
  | ok (i : Instr)
  /-- An undefined OP, a reserved bit set, or OFMT other than 0 on an operation without a format (R60). -/
  | illegal
  /-- OFMT = 3 on an operation with a format (R60). -/
  | fmt
  deriving DecidableEq, Repr

/-- OP = CMD[5:0] (R55). -/
def opField (c : Word) : Nat := c.toNat % 64

/-- RSV_LO = CMD[7:6] (R55). -/
def rsvLoField (c : Word) : Nat := c.toNat / 64 % 4

/-- OFMT = CMD[9:8] (R55). -/
def ofmtField (c : Word) : Nat := c.toNat / 256 % 4

/-- RSV_HI = CMD[31:10] (R55). -/
def rsvHiField (c : Word) : Nat := c.toNat / 1024

/-- The format an OFMT code names (R43); a two-bit code has no fifth value, so the rest is the reserved row. -/
def ofmtOfCode : Nat → OutFmt
  | 0 => .q7
  | 1 => .q15
  | 2 => .q16_15
  | _ => .reserved

/-- The OFMT code of a format (R43). -/
def OutFmt.code : OutFmt → Nat
  | .q7 => 0
  | .q15 => 1
  | .q16_15 => 2
  | .reserved => 3

/-- The operations without an output format, by OP (R57). -/
def plainOp : Nat → Option Instr
  | 0x01 => some .rshr
  | 0x03 => some .mulq31
  | 0x04 => some .rredSig
  | 0x05 => some .rredTanh
  | 0x06 => some .poly
  | 0x07 => some .antilog
  | 0x08 => some .recip
  | _ => none

/-- The operations with an output format, by OP: those of UsesOfmt (R57, R58). -/
def formattedOp (op : Nat) (f : OutFmt) : Option Instr :=
  match op with
  | 0x02 => some (.satcvt f)
  | 0x09 => some (.sig1 f)
  | 0x0A => some (.tanh1 f)
  | 0x10 => some (.vsigmoid f)
  | 0x11 => some (.vtanh f)
  | 0x12 => some (.vsoftmax f)
  | _ => none

/-- Decode, total on all 2^32 command words (R58). -/
def decode (c : Word) : Decoded :=
  if rsvHiField c ≠ 0 ∨ rsvLoField c ≠ 0 then .illegal
  else
    match formattedOp (opField c) (ofmtOfCode (ofmtField c)) with
    | some i => if ofmtField c = 3 then .fmt else .ok i
    | none =>
      match plainOp (opField c) with
      | some i => if ofmtField c = 0 then .ok i else .illegal
      | none => .illegal

/-- OP of a command (R57). -/
def Instr.opcode : Instr → Nat
  | .rshr => 0x01
  | .satcvt _ => 0x02
  | .mulq31 => 0x03
  | .rredSig => 0x04
  | .rredTanh => 0x05
  | .poly => 0x06
  | .antilog => 0x07
  | .recip => 0x08
  | .sig1 _ => 0x09
  | .tanh1 _ => 0x0A
  | .vsigmoid _ => 0x10
  | .vtanh _ => 0x11
  | .vsoftmax _ => 0x12

/-- OFMT of a command: 0 for an operation without an output format (R56). -/
def Instr.ofmtCode : Instr → Nat
  | .rshr => 0
  | .satcvt f => f.code
  | .mulq31 => 0
  | .rredSig => 0
  | .rredTanh => 0
  | .poly => 0
  | .antilog => 0
  | .recip => 0
  | .sig1 f => f.code
  | .tanh1 f => f.code
  | .vsigmoid f => f.code
  | .vtanh f => f.code
  | .vsoftmax f => f.code

/-- The command word `(OFMT << 8) | OP` of a command (R61). -/
def encode (i : Instr) : Word := BitVec.ofNat 32 (i.ofmtCode * 256 + i.opcode)

/-- The decoder over a command word given as the number w of its low nbits bits, bit 0 the least
significant bit of CMD (R55); the bits above nbits are 0. A command is exactly one 32-bit word. -/
def decodeTableWord (nbits w : Nat) : Option Instr :=
  if 32 < nbits then none
  else
    match decode (BitVec.ofNat 32 (w % 2 ^ nbits)) with
    | .ok i => some i
    | .illegal => none
    | .fmt => none

end Sys2Proof
end

