-- ==== Sys2Proof/Machine/Operands.lean ====
section
/-! DEFINITION. Reading words as integers and integers as words (00_scope.md R9, R12, R13), the operands of a
command (30_encoding.md R59) and the layout of an output element (20_memory.md R43). -/

namespace Sys2Proof.Machine

/-- s32(v): the two's-complement reading (R9). -/
def s32 (v : Word) : Int := v.toInt

/-- u32(v): the unsigned reading (R9). -/
def u32 (v : Word) : Nat := v.toNat

/-- bits32(i): the low 32 bits of the two's-complement encoding (R9). -/
def bits32 (i : Int) : Word := BitVec.ofInt 32 i

/-- sat_n(v): clamp to the n-bit signed range (R12). -/
def sat (n : Nat) (v : Int) : Int :=
  if v < -2 ^ (n - 1) then -2 ^ (n - 1) else if v > 2 ^ (n - 1) - 1 then 2 ^ (n - 1) - 1 else v

/-- a >> k: floor(a / 2^k), the arithmetic shift right of R13. -/
def asr (a : Int) (k : Nat) : Int := a / 2 ^ k

/-- ONE, the Q31 value standing for the real 1 (R14). -/
def one : Int := 2147483647

/-- a = s32(L.opa) (R59). -/
def opA (s : State) : Int := s32 s.latched.opa

/-- b = s32(L.opb) (R59). -/
def opB (s : State) : Int := s32 s.latched.opb

/-- src = u32(L.src) (R59). -/
def srcAddr (s : State) : Nat := u32 s.latched.src

/-- dst = u32(L.dst) (R59). -/
def dstAddr (s : State) : Nat := u32 s.latched.dst

/-- N = s32(L.len) (R30, R59). -/
def count (s : State) : Int := s32 s.latched.len

/-- The width w in bytes and the shift k from Q31 of an output format (R43). -/
structure Layout where
  /-- w: bytes of an output element. -/
  width : Nat
  /-- k: shift from Q31 to the format. -/
  shift : Nat
  deriving DecidableEq, Repr, Inhabited

/-- The rows of R43; the reserved row has no width and no shift. -/
def layoutOf : OutFmt → Option Layout
  | .q7 => some ⟨1, 24⟩
  | .q15 => some ⟨2, 16⟩
  | .q16_15 => some ⟨4, 16⟩
  | .reserved => none

/-- The layout of a kernel command's output elements; none for a scalar command, which has no buffers (R45). -/
def kernelLayout : Instr → Option Layout
  | .rshr => none
  | .satcvt _ => none
  | .mulq31 => none
  | .rredSig => none
  | .rredTanh => none
  | .poly => none
  | .antilog => none
  | .recip => none
  | .sig1 _ => none
  | .tanh1 _ => none
  | .vsigmoid f => layoutOf f
  | .vtanh f => layoutOf f
  | .vsoftmax f => layoutOf f

end Sys2Proof.Machine
end

