-- ==== Sys2Proof/Machine/Rom.lean ====
section
/-! DEFINITION. The constant ROM: the literals of 10_state.md R33, which "must be reproduced bit-exactly". K_TANH
is its own literal, not twice K_SIG (90_conflicts.md C1). -/

namespace Sys2Proof.Machine

/-- CONST0: degree-4 coefficient of the 2^-d polynomial. -/
def coeff0 : Int := 14685184

/-- CONST1: degree-3 coefficient. -/
def coeff1 : Int := -114217216

/-- CONST2: degree-2 coefficient. -/
def coeff2 : Int := 514075392

/-- CONST3: degree-1 coefficient. -/
def coeff3 : Int := -1488269056

/-- CONST4: degree-0 coefficient. -/
def coeff4 : Int := 2147483647

/-- CONST5: SEED, the reciprocal's initial-guess constant. -/
def seedConst : Int := 2061584302

/-- CONST6: K_SIG, the sigmoid and softmax scale constant. -/
def kSig : Int := 774541002

/-- CONST7: K_TANH, the tanh scale constant. -/
def kTanh : Int := 1549082005

end Sys2Proof.Machine
end

