-- ==== Sys2Proof/Machine/Ops.lean ====
section
/-! DEFINITION. The shared operations: bytes of the data window (20_memory.md R41, R44 to R48), the register block
(10_state.md R19 to R34), starting a command (R36 step 1) and completing one (60_exceptions.md R107). QACT takes no
exception and has no return from one (R109): a command that fails completes with a code, by the one operation
complete. -/

namespace Sys2Proof.Machine

/-! ### Bytes of the data window -/

/-- What a byte that nothing has written reads as: the spec gives no power-on contents (DESIGN CHOICE, log 4). -/
def unlisted : Byte := 0

/-- The byte at address a. -/
def readByte : Memory → Nat → Byte
  | [], _ => unlisted
  | (b, v) :: m, a => if a = b then v else readByte m a

/-- Store v at address a, keeping the canonical form. -/
def writeByte (a : Nat) (v : Byte) : Memory → Memory
  | [] => if v = unlisted then [] else [(a, v)]
  | (b, u) :: m =>
    if a < b then (if v = unlisted then (b, u) :: m else (a, v) :: (b, u) :: m)
    else if a = b then (if v = unlisted then m else (a, v) :: m)
    else (b, u) :: writeByte a v m

/-- The canonical form: addresses strictly rising, and no entry equal to what an unlisted byte reads as. -/
def memWf : Memory → Bool
  | [] => true
  | (a, v) :: m => v != unlisted && m.all (fun c => decide (a < c.1)) && memWf m

/-- MemRead(a, n), little-endian (R10, R41). -/
def memRead (m : Memory) : Nat → Nat → Nat
  | _, 0 => 0
  | a, n + 1 => (readByte m a).toNat + 256 * memRead m (a + 1) n

/-- MemWrite(a, n, v): the low 8n bits of v, little-endian (R10, R41). -/
def memWrite (m : Memory) : Nat → Nat → Nat → Memory
  | _, 0, _ => m
  | a, n + 1, v => memWrite (writeByte a (BitVec.ofNat 8 v) m) (a + 1) n (v / 256)

/-- The n bytes from a become the free bytes of draws k, k + 1, … (a draw per byte: R51, R52, R116). -/
def memDraw (m : Memory) : Nat → Nat → Nat → Memory
  | _, 0, _ => m
  | a, n + 1, k => memDraw (writeByte a (Config.freeByte k) m) (a + 1) n (k + 1)

/-- Store the outputs in a row, w bytes each: out[i] at a + w*i (R44). -/
def storeElems (w : Nat) : Memory → Nat → List Int → Memory
  | m, _, [] => m
  | m, a, o :: os => storeElems w (memWrite m a w (u32 (bits32 o))) (a + w) os

/-! ### Address predicates -/

/-- InWindow(a, n) (R47). -/
abbrev InWindow (p : Platform) (a n : Nat) : Prop :=
  n = 0 ∨ (p.memBase ≤ a ∧ a + n ≤ p.memBase + p.memSize)

/-- Overlap(a, m, b, n) (R48). -/
abbrev Overlap (a m b n : Nat) : Prop := a < b + n ∧ b < a + m

/-- A run of bytes: size bytes from lo. -/
structure Span where
  lo : Nat
  size : Nat
  deriving DecidableEq, Repr, Inhabited

/-- The byte at address a lies in the span. -/
abbrev InSpan (sp : Span) (a : Nat) : Prop := sp.lo ≤ a ∧ a < sp.lo + sp.size

/-- Some byte of [a, a + n) lies in the span. -/
abbrev Meets (sp : Span) (a n : Nat) : Prop := max a sp.lo < min (a + n) (sp.lo + sp.size)

/-- The part of a span inside the data window. -/
def clipToWindow (p : Platform) (sp : Span) : Span :=
  let lo := max sp.lo p.memBase
  ⟨lo, min (sp.lo + sp.size) (p.memBase + p.memSize) - lo⟩

/-- Each byte of a span that lies in the data window becomes a draw of its own; nothing else of the window changes
(R51, R52, R116; log 7, log 8). -/
def drawSpan (s : State) (sp : Span) : State :=
  let c := clipToWindow s.platform sp
  (s.setMem (memDraw s.mem c.lo c.size s.draws)).addDraws c.size

/-- IN of the latched command (R45). -/
def inSpan (s : State) : Span := ⟨srcAddr s, 4 * (count s).toNat⟩

/-- OUT of the latched command with output layout l (R45). -/
def outSpan (s : State) (l : Layout) : Span := ⟨dstAddr s, l.width * (count s).toNat⟩

/-- The layout of the running command's outputs: none in IDLE, for a scalar command and for a word that is no
command, which have no buffers (R45). -/
def runningLayout (s : State) : Option Layout :=
  if s.status.busy then
    match decode s.latched.cmd with
    | .ok i => kernelLayout i
    | .illegal => none
    | .fmt => none
  else none

/-- IN of the running command (R45); no byte when there is none. -/
def runningIn (s : State) : Span :=
  match runningLayout s with
  | some _ => inSpan s
  | none => ⟨0, 0⟩

/-- OUT of the running command (R45); no byte when there is none. -/
def runningOut (s : State) : Span :=
  match runningLayout s with
  | some l => outSpan s l
  | none => ⟨0, 0⟩

/-! ### Starting and completing a command -/

/-- Start (R36 step 1): a write of v to CMD in IDLE. -/
def startCommand (s : State) (v : Word) : State :=
  (((s.setCmd v).setLatched ⟨v, s.src, s.dst, s.len, s.opa, s.opb⟩).setStatus statusStarted).setDisturbed false

/-- Complete(c) after the command's writes (R107). An error completes on the state as it was. -/
def complete (s : State) (c : ErrCode) : State := s.setStatus (statusCompleted s.status c)

/-! ### The register block -/

/-- Byte offset of a register from REG_BASE (R20). -/
def regOffset : Reg → Nat
  | .cmd => 0x00
  | .status => 0x04
  | .src => 0x08
  | .dst => 0x0C
  | .len => 0x10
  | .opa => 0x14
  | .opb => 0x18
  | .res0 => 0x1C
  | .res1 => 0x20
  | .res2 => 0x24
  | .const0 => 0x40
  | .const1 => 0x44
  | .const2 => 0x48
  | .const3 => 0x4C
  | .const4 => 0x50
  | .const5 => 0x54
  | .const6 => 0x58
  | .const7 => 0x5C

/-- The register at a byte offset; none at the reserved offsets (R20, R34). -/
def regAt : Nat → Option Reg
  | 0x00 => some .cmd
  | 0x04 => some .status
  | 0x08 => some .src
  | 0x0C => some .dst
  | 0x10 => some .len
  | 0x14 => some .opa
  | 0x18 => some .opb
  | 0x1C => some .res0
  | 0x20 => some .res1
  | 0x24 => some .res2
  | 0x40 => some .const0
  | 0x44 => some .const1
  | 0x48 => some .const2
  | 0x4C => some .const3
  | 0x50 => some .const4
  | 0x54 => some .const5
  | 0x58 => some .const6
  | 0x5C => some .const7
  | _ => none

/-- The value a host read of a register gives (R21 to R33). -/
def readReg (s : State) : Reg → Word
  | .cmd => s.cmd
  | .status => statusWord s.status
  | .src => s.src
  | .dst => s.dst
  | .len => s.len
  | .opa => s.opa
  | .opb => s.opb
  | .res0 => s.res0
  | .res1 => s.res1
  | .res2 => s.res2
  | .const0 => bits32 coeff0
  | .const1 => bits32 coeff1
  | .const2 => bits32 coeff2
  | .const3 => bits32 coeff3
  | .const4 => bits32 coeff4
  | .const5 => bits32 seedConst
  | .const6 => bits32 kSig
  | .const7 => bits32 kTanh

/-- A host write of v to a register: CMD starts a command in IDLE and is lost while BUSY (R21, R26); the operand
registers take the value at any time (R28 to R31); the read-only registers ignore it (R19). -/
def writeReg (s : State) (v : Word) : Reg → State
  | .cmd => if s.status.busy then s.setStatus (statusLost s.status) else startCommand s v
  | .status => s
  | .src => s.setSrc v
  | .dst => s.setDst v
  | .len => s.setLen v
  | .opa => s.setOpa v
  | .opb => s.setOpb v
  | .res0 => s
  | .res1 => s
  | .res2 => s
  | .const0 => s
  | .const1 => s
  | .const2 => s
  | .const3 => s
  | .const4 => s
  | .const5 => s
  | .const6 => s
  | .const7 => s

/-- A read at an offset of the register block: a reserved offset reads 0 (R34). -/
def readOffset (s : State) (off : Nat) : Word :=
  match regAt off with
  | some r => readReg s r
  | none => 0

/-- A write at an offset of the register block: a reserved offset ignores it (R34). -/
def writeOffset (s : State) (off : Nat) (v : Word) : State :=
  match regAt off with
  | some r => writeReg s v r
  | none => s

end Sys2Proof.Machine
end

