-- ==== Sys2Proof/Machine/QFormat.lean ====
section
/-! DEFINITION. Q-format arithmetic and its commands RSHR, SATCVT, MULQ31 (40_qformat.md R63 to R69). -/

namespace Sys2Proof.Machine

/-- RoundShift(x, k): half-way values go toward plus infinity for both signs (R63, 90_conflicts.md C3). -/
def roundShift (x : Int) : Nat → Int
  | 0 => x
  | k + 1 => asr (x + 2 ^ k) (k + 1)

/-- MulQ31(a, b) (R64). -/
def mulQ31 (a b : Int) : Int := sat 32 (asr (a * b + 2 ^ 30) 31)

/-- Cvt(y, ofmt) with the width and the shift of the format (R65). -/
def cvt (y : Int) (l : Layout) : Int := sat (8 * l.width) (roundShift y l.shift)

/-- SatNeg(v) (R66). -/
def satNeg (v : Int) : Int := sat 32 (-v)

/-- SatAbs(v) (R66). -/
def satAbs (v : Int) : Int := sat 32 (if v < 0 then -v else v)

/-- An operation with an output format: FMT for the reserved code, with no write (R58, R106), else the operation
with the format's layout. -/
def withFormat (f : OutFmt) (s : State) (run : Layout → State) : State :=
  match layoutOf f with
  | none => complete s .fmt
  | some l => run l

/-- RSHR (R67). -/
def execRshr (s : State) : Host.Outcome State Fault Refusal :=
  .next (if opB s < 0 ∨ 31 < opB s then complete s .shamt
    else complete (s.setRes0 (bits32 (roundShift (opA s) (opB s).toNat))) .noError)

/-- SATCVT (R68). -/
def execSatcvt (f : OutFmt) (s : State) : Host.Outcome State Fault Refusal :=
  .next (withFormat f s fun l => complete (s.setRes0 (bits32 (cvt (opA s) l))) .noError)

/-- MULQ31 (R69). -/
def execMulq31 (s : State) : Host.Outcome State Fault Refusal :=
  .next (complete (s.setRes0 (bits32 (mulQ31 (opA s) (opB s)))) .noError)

end Sys2Proof.Machine
end

