-- ==== Sys2Proof/Machine/RangeReducer.lean ====
section
/-! DEFINITION. The range reducer and its commands RRED_SIG, RRED_TANH (41_range_reducer.md R70 to R77). -/

namespace Sys2Proof.Machine

/-- The triple (sign, n, d) of Reduce (R70). -/
structure Reduced where
  /-- 1 when x < 0, else 0. -/
  sign : Int
  /-- The exponent: how many halvings. -/
  n : Int
  /-- The fraction in Q31. -/
  d : Int
  deriving DecidableEq, Repr, Inhabited

/-- t of Reduce: |x| times the scale constant, rounded (R70). -/
def scaled (x k : Int) : Int := mulQ31 (satAbs x) k

/-- Reduce(x, K) (R70). t is not negative, so t & 0x7FFFFF is its remainder by 2^23 (R13; DEDUCED, log 16). -/
def reduce (x k : Int) : Reduced :=
  ⟨if x < 0 then 1 else 0, asr (scaled x k) 23, scaled x k % 2 ^ 23 * 2 ^ 8⟩

/-- RES0, RES1, RES2 take sign, n and d, and the command completes (R76, R77). -/
def completeReduced (s : State) (r : Reduced) : State :=
  complete (((s.setRes0 (bits32 r.sign)).setRes1 (bits32 r.n)).setRes2 (bits32 r.d)) .noError

/-- RRED_SIG (R76). -/
def execRredSig (s : State) : Host.Outcome State Fault Refusal :=
  .next (completeReduced s (reduce (opA s) kSig))

/-- RRED_TANH (R77). -/
def execRredTanh (s : State) : Host.Outcome State Fault Refusal :=
  .next (completeReduced s (reduce (opA s) kTanh))

end Sys2Proof.Machine
end

