-- ==== Sys2Proof/Machine/Polynomial.lean ====
section
/-! DEFINITION. The polynomial evaluator, the exponent application and the commands POLY, ANTILOG
(42_polynomial.md R78 to R83). -/

namespace Sys2Proof.Machine

/-- One multiply-accumulate step of Horner: exact product and sum, one rounding, one saturation (R78). -/
def hornerStep (d y c : Int) : Int := sat 32 (c + asr (y * d + 2 ^ 30) 31)

/-- Horner(d): five coefficients, four steps (R78, R79). -/
def horner (d : Int) : Int := [coeff1, coeff2, coeff3, coeff4].foldl (hornerStep d) coeff0

/-- ApplyExp(p, n): a truncating arithmetic shift (R80). -/
def applyExp (p : Int) (n : Nat) : Int := asr p n

/-- Antilog(x): e^(-|x|) in Q31 (R81). -/
def antilog (x : Int) : Int := applyExp (horner (reduce x kSig).d) (reduce x kSig).n.toNat

/-- POLY (R82). -/
def execPoly (s : State) : Host.Outcome State Fault Refusal :=
  .next (complete (s.setRes0 (bits32 (horner (opA s)))) .noError)

/-- ANTILOG (R83). -/
def execAntilog (s : State) : Host.Outcome State Fault Refusal :=
  let r := reduce (opA s) kSig
  let p := horner r.d
  .next (complete (((s.setRes0 (bits32 (applyExp p r.n.toNat))).setRes1 (bits32 p)).setRes2 (bits32 r.n)) .noError)

end Sys2Proof.Machine
end

