-- ==== Sys2Proof/Machine/Reciprocal.lean ====
section
/-! DEFINITION. The Newton-Raphson reciprocal refiner and its command RECIP (43_reciprocal.md R84 to R88). -/

namespace Sys2Proof.Machine

/-- Seed(x): the implemented form const - (x >> 1) (R84, 90_conflicts.md C6). -/
def seed (x : Int) : Int := sat 32 (seedConst - asr x 1)

/-- e of NRStep: 1 - y·(1 + x), an exact sum and one saturation (R85). -/
def nrError (y x : Int) : Int := sat 32 (one - y - mulQ31 y x)

/-- NRStep(y, x) (R85). -/
def nrStep (y x : Int) : Int := sat 32 (y + mulQ31 y (nrError y x))

/-- The triple (y0, y1, y2) of Recip (R86). -/
structure Reciprocals where
  y0 : Int
  y1 : Int
  y2 : Int
  deriving DecidableEq, Repr, Inhabited

/-- Recip(x): exactly two steps (R86). -/
def recip (x : Int) : Reciprocals :=
  let y0 := seed x
  let y1 := nrStep y0 x
  ⟨y0, y1, nrStep y1 x⟩

/-- RECIP (R88). -/
def execRecip (s : State) : Host.Outcome State Fault Refusal :=
  let r := recip (opA s)
  .next (complete (((s.setRes0 (bits32 r.y2)).setRes1 (bits32 r.y0)).setRes2 (bits32 r.y1)) .noError)

end Sys2Proof.Machine
end

