-- ==== Sys2Proof/Machine/Kernel.lean ====
section
/-! DEFINITION. What the three kernels share: the entry checks (60_exceptions.md R104), reading the input buffer and
writing the output buffer (20_memory.md R44, R45), and what becomes of a command whose buffers the host wrote while
it ran (R51). -/

namespace Sys2Proof.Machine

/-- CheckKernel: the first error that applies, or noError (R104). -/
def checkKernel (s : State) (l : Layout) : ErrCode :=
  let n := count s
  let src := srcAddr s
  let dst := dstAddr s
  if n ≤ 0 then .len
  else if src = 0 ∨ dst = 0 then .null
  else if src % 4 ≠ 0 ∨ dst % l.width ≠ 0 then .align
  else if ¬ InWindow s.platform src (4 * n.toNat) ∨ ¬ InWindow s.platform dst (l.width * n.toNat) then .range
  else if Overlap src (4 * n.toNat) dst (l.width * n.toNat) then .aliased
  else .noError

/-- Input element i: in[i] = s32(MemRead(src + 4*i, 4)) (R44); a free word when the host has written IN or OUT of
the running command (R51: "for some input"). -/
def inputElem (s : State) (i : Nat) : Int :=
  if s.disturbed then s32 (Config.freeWord (s.draws + i))
  else s32 (BitVec.ofNat 32 (memRead s.mem (srcAddr s + 4 * i) 4))

/-- All N input elements, as they are when the engine steps (R44, R119). -/
def inputElems (s : State) : List Int := (List.range (count s).toNat).map (inputElem s)

/-- OUT takes the outputs (R44); every byte of it a free byte when the host has written IN or OUT of the running
command (R51). Draws s.draws to s.draws + N - 1 are then the input elements, and the bytes of OUT follow. -/
def storeOutputs (s : State) (l : Layout) (outs : List Int) : State :=
  if s.disturbed then drawSpan (s.addDraws (count s).toNat) (outSpan s l)
  else s.setMem (storeElems l.width s.mem (dstAddr s) outs)

/-- A kernel stopped by its entry checks performs no write (R104, R107); every byte of its OUT is a free byte all the
same when the host has written its IN or OUT (R51; log 7). -/
def storeNothing (s : State) (l : Layout) : State := if s.disturbed then drawSpan s (outSpan s l) else s

/-- A kernel: format and entry checks, then body on the layout (R104, R106). -/
def runKernel (f : OutFmt) (s : State) (body : Layout → State) : State :=
  withFormat f s fun l =>
    if checkKernel s l = .noError then body l else complete (storeNothing s l) (checkKernel s l)

/-- MapKernel(g, L, ofmt): g on every element, converted to the format; no RES register is written (R94). -/
def mapKernel (g : Int → Int) (f : OutFmt) (s : State) : State :=
  runKernel f s fun l => complete (storeOutputs s l ((inputElems s).map fun x => cvt (g x) l)) .noError

end Sys2Proof.Machine
end

