-- ==== Sys2Proof/Machine/Activation.lean ====
section
/-! DEFINITION. Sigmoid and tanh: the per-element functions and the commands SIG1, TANH1, VSIGMOID, VTANH
(44_sigmoid_tanh.md R89 to R96). -/

namespace Sys2Proof.Machine

/-- SigQ31(x) (R89). -/
def sigQ31 (x : Int) : Int :=
  let r := reduce x kSig
  let y := (recip (applyExp (horner r.d) r.n.toNat)).y2
  if r.sign = 1 then sat 32 (one - y) else y

/-- TanhQ31(x) (R90). -/
def tanhQ31 (x : Int) : Int :=
  let r := reduce x kTanh
  let z := applyExp (horner r.d) r.n.toNat
  let v := mulQ31 (sat 32 (one - z)) (recip z).y2
  if r.sign = 1 then satNeg v else v

/-- RES0 takes the Q31 result and RES1 its conversion, and the command completes (R92, R93). -/
def completeActivation (s : State) (y : Int) (l : Layout) : State :=
  complete ((s.setRes0 (bits32 y)).setRes1 (bits32 (cvt y l))) .noError

/-- SIG1 (R92). -/
def execSig1 (f : OutFmt) (s : State) : Host.Outcome State Fault Refusal :=
  .next (withFormat f s (completeActivation s (sigQ31 (opA s))))

/-- TANH1 (R93). -/
def execTanh1 (f : OutFmt) (s : State) : Host.Outcome State Fault Refusal :=
  .next (withFormat f s (completeActivation s (tanhQ31 (opA s))))

/-- VSIGMOID (R95). -/
def execVsigmoid (f : OutFmt) (s : State) : Host.Outcome State Fault Refusal := .next (mapKernel sigQ31 f s)

/-- VTANH (R96). -/
def execVtanh (f : OutFmt) (s : State) : Host.Outcome State Fault Refusal := .next (mapKernel tanhQ31 f s)

end Sys2Proof.Machine
end

