-- ==== Sys2Proof/Machine/Softmax.lean ====
section
/-! DEFINITION. Softmax over a buffer and its command VSOFTMAX (45_softmax.md R97 to R103). -/

namespace Sys2Proof.Machine

/-- m, the maximum of the inputs as signed integers (R97). A kernel that runs has N >= 1, so the empty list is
never asked for (log 19). -/
def maxElem : List Int → Int
  | [] => 0
  | x :: xs => xs.foldl max x

/-- e_i = Antilog(sat(in_i - m)) (R98). -/
def expElem (m x : Int) : Int := antilog (sat 32 (x - m))

/-- S, the exact sum of the e_i (R98). -/
def expSum (xs : List Int) : Int := (xs.map (expElem (maxElem xs))).sum

/-- B, the bit length: the least B with S < 2^B (R99). -/
def bitLength (n : Nat) : Nat := if n = 0 then 0 else Nat.log2 n + 1

/-- e_s = B - 32 (R99). -/
def sumExp (sum : Int) : Int := (bitLength sum.toNat : Int) - 32

/-- xs = mant - 2^31, the sum's mantissa as a Q31 fraction (R99). -/
def sumFraction (sum : Int) : Int :=
  (if 32 ≤ bitLength sum.toNat then asr sum (bitLength sum.toNat - 32) else sum * 2) - 2 ^ 31

/-- r, the shared reciprocal (R100). -/
def sumRecip (sum : Int) : Int := (recip (sumFraction sum)).y2

/-- o_i from q_i: the exponent e_s as a truncating shift right, or a saturating shift left by 1 (R100). -/
def scaleOut (es q : Int) : Int := if 0 ≤ es then asr q es.toNat else sat 32 (q * 2)

/-- o_i, the Q31 output of element x among xs (R100). -/
def softmaxQ31 (xs : List Int) (x : Int) : Int :=
  scaleOut (sumExp (expSum xs)) (mulQ31 (expElem (maxElem xs) x) (sumRecip (expSum xs)))

/-- The elements written to OUT (R100). -/
def softmaxOuts (l : Layout) (xs : List Int) : List Int := xs.map fun x => cvt (softmaxQ31 xs x) l

/-- RES0, RES1, RES2 take m, r and e_s (R102). -/
def setSoftmaxRes (s : State) (xs : List Int) : State :=
  ((s.setRes0 (bits32 (maxElem xs))).setRes1 (bits32 (sumRecip (expSum xs)))).setRes2
    (bits32 (sumExp (expSum xs)))

/-- VSOFTMAX (R103). -/
def execVsoftmax (f : OutFmt) (s : State) : Host.Outcome State Fault Refusal :=
  .next (runKernel f s fun l =>
    complete (setSoftmaxRes (storeOutputs s l (softmaxOuts l (inputElems s))) (inputElems s)) .noError)

end Sys2Proof.Machine
end

