-- ==== Sys2Proof/Machine/Dispatch.lean ====
section
/-! DEFINITION. The execute step's choice of operation (10_state.md R36 step 2, 30_encoding.md R57): one arm per
command. -/

namespace Sys2Proof.Machine

def exec (i : Instr) (s : State) : Host.Outcome State Fault Refusal :=
  match i with
  | .rshr => Sys2Proof.Machine.execRshr s
  | .satcvt f => Sys2Proof.Machine.execSatcvt f s
  | .mulq31 => Sys2Proof.Machine.execMulq31 s
  | .rredSig => Sys2Proof.Machine.execRredSig s
  | .rredTanh => Sys2Proof.Machine.execRredTanh s
  | .poly => Sys2Proof.Machine.execPoly s
  | .antilog => Sys2Proof.Machine.execAntilog s
  | .recip => Sys2Proof.Machine.execRecip s
  | .sig1 f => Sys2Proof.Machine.execSig1 f s
  | .tanh1 f => Sys2Proof.Machine.execTanh1 f s
  | .vsigmoid f => Sys2Proof.Machine.execVsigmoid f s
  | .vtanh f => Sys2Proof.Machine.execVtanh f s
  | .vsoftmax f => Sys2Proof.Machine.execVsoftmax f s

end Sys2Proof.Machine
end

