-- ==== Sys2Proof/Machine/Engine.lean ====
section
/-! DEFINITION. The agents' steps: the engine's execute step (10_state.md R36), a host access (R19, 20_memory.md
R41, R51, 60_exceptions.md R114) and reset (70_reset_and_hazards.md R115, R116), and which of them moves next. -/

namespace Sys2Proof.Machine

/-- The engine's step: in BUSY it decodes the latched command word and executes or completes with the encoding
error (R36 step 2, R58, R60); in IDLE it takes none. -/
def engineStep (s : State) : Host.Outcome State Fault Refusal :=
  if s.status.busy then
    match decode s.latched.cmd with
    | .ok i => exec i s
    | .illegal => .next (complete s .illegal)
    | .fmt => .next (complete s .fmt)
  else .next s

/-- What a host access of n bytes at address a reaches. -/
inductive Target where
  /-- The register block, as one naturally aligned 32-bit access at this offset (R19). -/
  | register (offset : Nat)
  /-- The data window (R41). -/
  | window
  /-- The register block in another way, which R19 refuses. -/
  | badRegister
  /-- Neither, which is not part of QACT (R42). -/
  | outside
  deriving DecidableEq, Repr

/-- Which address space an access falls in (R19, R41, R42; log 10, log 11). Of an access of 0 bytes the spec says
nothing: strictly inside the register block it is refused, at REG_BASE and elsewhere it reaches the window and does
nothing (DESIGN CHOICE, log 21). -/
def targetOf (p : Platform) (a n : Nat) : Target :=
  if Overlap a n p.regBase 256 then
    (if n = 4 ∧ p.regBase ≤ a ∧ (a - p.regBase) % 4 = 0 then .register (a - p.regBase) else .badRegister)
  else if InWindow p a n then .window
  else .outside

/-- The byte a host read gets at address a: a byte of OUT of the running command is the k-th draw (R51). -/
def hostByte (s : State) (a k : Nat) : Byte :=
  if InSpan (runningOut s) a then Config.freeByte k else readByte s.mem a

/-- n bytes for the host from a, little-endian (R10, R51). -/
def hostBytes (s : State) : Nat → Nat → Nat → Nat
  | _, 0, _ => 0
  | a, n + 1, k => (hostByte s a k).toNat + 256 * hostBytes s (a + 1) n (k + 1)

/-- A host read of the data window (R51, R114): while BUSY each byte read takes a draw of its own (log 5). -/
def hostReadWindow (s : State) (a n : Nat) : State :=
  let t := s.pushReply (.mem n (hostBytes s a n s.draws))
  if s.status.busy then t.addDraws n else t

/-- A host write of the data window: the bytes take the value, and a write of a byte of the running command's IN
or OUT disturbs that command (R51; log 6). -/
def hostWriteWindow (s : State) (a n v : Nat) : State :=
  (s.setMem (memWrite s.mem a n v)).setDisturbed
    (s.disturbed || decide (Meets (runningIn s) a n ∨ Meets (runningOut s) a n))

/-- One host access (R19, R42, R114). -/
def hostStep (act : HostAction) (s : State) : Host.Outcome State Fault Refusal :=
  match act with
  | .read a n =>
    match targetOf s.platform (u32 a) n with
    | .register off => .next (s.pushReply (.reg (readOffset s off)))
    | .window => .next (hostReadWindow s (u32 a) n)
    | .badRegister => .refused .registerAccess
    | .outside => .refused .outsideQact
  | .write a n v =>
    match targetOf s.platform (u32 a) n with
    | .register off => .next (writeOffset s off (BitVec.ofNat 32 v))
    | .window => .next (hostWriteWindow s (u32 a) n v)
    | .badRegister => .refused .registerAccess
    | .outside => .refused .outsideQact

/-- Reset (R115, R116): registers to the values of R39, the engine IDLE, L unspecified, a draw per byte of the
abandoned command's OUT, every other byte unchanged. -/
def resetStep (s : State) : State :=
  let t := drawSpan s (runningOut s)
  { t with
    cmd := 0
    status := Status.idle
    src := 0
    dst := 0
    len := 0
    opa := 0
    opb := 0
    res0 := 0
    res1 := 0
    res2 := 0
    latched := Latched.unspecified t.draws
    draws := t.draws + 6
    disturbed := false }

/-- One step: the next event of the schedule happens; when none is left, the engine has its turn (R36, R121;
log 2). -/
def advance (s : State) : Host.Outcome State Fault Refusal :=
  match s.inputs with
  | [] => engineStep s
  | .engine :: es => engineStep (s.setInputs es)
  | .host a :: es => hostStep a (s.setInputs es)
  | .reset :: es => .next (resetStep (s.setInputs es))

/-- The state in which command word w (its low nbits bits, the rest 0) has just been started and the engine has the
next turn: a command is not fetched from memory (R37, R54) but started by a write to CMD (R36 step 1; log 2). -/
def loadCommand (s : State) (nbits w : Nat) : State :=
  (startCommand s (BitVec.ofNat 32 (w % 2 ^ nbits))).setInputs (.engine :: s.inputs)

end Sys2Proof.Machine
end

