-- ==== Sys2Proof/Machine/Step.lean ====
section
/-! DEFINITION. One step of QACT, and the state from which the next step runs a given command word. -/

namespace Sys2Proof.Machine

/-- One step of the machine: one host access, one engine step or one reset (10_state.md R18, R36;
70_reset_and_hazards.md R115). -/
def step (s : State) : Host.Outcome State Fault Refusal := advance s

/-- s with command word w started and the engine's turn next (10_state.md R36 step 1; log 2). -/
def State.withFetchWord (s : State) (nbits w : Nat) : State := loadCommand s nbits w

end Sys2Proof.Machine
end

