-- ==== Sys2Proof/Machine/Script.lean ====
section
/-! DEFINITION. Assembler syntax (30_encoding.md R61) and the host script notation (R62): a script's statements as
events of the schedule. The host's control flow belongs to the host (R62, R112); what a branch tests is bnzTaken. -/

namespace Sys2Proof.Machine

/-- The suffix of an output format; the reserved code has none (R61). -/
def asmSuffix : OutFmt → Option String
  | .q7 => some ".Q7"
  | .q15 => some ".Q15"
  | .q16_15 => some ".Q16_15"
  | .reserved => none

/-- A mnemonic with its required suffix. -/
def withSuffix (name : String) (f : OutFmt) : Option String := (asmSuffix f).map (name ++ ·)

/-- The command as text: MNEMONIC or MNEMONIC.FMT (R61); a command that is not well formed has no text. -/
def asmOf : Instr → Option String
  | .rshr => some "RSHR"
  | .satcvt f => withSuffix "SATCVT" f
  | .mulq31 => some "MULQ31"
  | .rredSig => some "RRED_SIG"
  | .rredTanh => some "RRED_TANH"
  | .poly => some "POLY"
  | .antilog => some "ANTILOG"
  | .recip => some "RECIP"
  | .sig1 f => withSuffix "SIG1" f
  | .tanh1 f => withSuffix "TANH1" f
  | .vsigmoid f => withSuffix "VSIGMOID" f
  | .vtanh f => withSuffix "VTANH" f
  | .vsoftmax f => withSuffix "VSOFTMAX" f

/-- The output formats a suffix can name (R61). -/
def asmFormats : List OutFmt := [.q7, .q15, .q16_15]

/-- Every command that has a text (R57, R61). -/
def asmCommands : List Instr :=
  [.rshr, .mulq31, .rredSig, .rredTanh, .poly, .antilog, .recip] ++ asmFormats.map .satcvt ++
    asmFormats.map .sig1 ++ asmFormats.map .tanh1 ++ asmFormats.map .vsigmoid ++ asmFormats.map .vtanh ++
    asmFormats.map .vsoftmax

/-- The command a text names; none where a suffix is missing, refused or unknown (R61). -/
def assemble (text : String) : Option Instr := asmCommands.find? fun i => asmOf i == some text

/-- The byte address of a register (R20). -/
def regAddr (p : Platform) (r : Reg) : Word := BitVec.ofNat 32 (p.regBase + regOffset r)

/-- `wr REG, v` (R62). -/
def scriptWr (p : Platform) (r : Reg) (v : Word) : Event := .host (.write (regAddr p r) 4 (u32 v))

/-- `rd REG -> $t` (R62): the value goes to the host's replies. -/
def scriptRd (p : Platform) (r : Reg) : Event := .host (.read (regAddr p r) 4)

/-- `mw addr, n, v` (R62). -/
def scriptMw (a : Word) (n v : Nat) : Event := .host (.write a n v)

/-- `mr addr, n -> $t` (R62). -/
def scriptMr (a : Word) (n : Nat) : Event := .host (.read a n)

/-- `bnz $t, mask, label` is taken (R62). -/
def bnzTaken (t mask : Word) : Bool := t &&& mask != 0

/-- `cmd MNEMONIC[.FMT]` (R62). -/
def scriptCmd (p : Platform) (i : Instr) : Event := scriptWr p .cmd (encode i)

/-- One pass of the `wait` loop: the read of STATUS whose bit 0 the host's bnz tests (R62). -/
def scriptPoll (p : Platform) : Event := scriptRd p .status

/-- `call MNEMONIC[.FMT], a, b` up to its `wait` (R62). -/
def scriptCall (p : Platform) (i : Instr) (a b : Word) : List Event :=
  [scriptWr p .opa a, scriptWr p .opb b, scriptCmd p i]

/-- The register write an event makes, as offset and value (R62). -/
def registerWrite (p : Platform) : Event → Option (Nat × Word)
  | .host (.write a n v) =>
    match targetOf p (u32 a) n with
    | .register off => some (off, BitVec.ofNat 32 v)
    | .window => none
    | .badRegister => none
    | .outside => none
  | .host (.read _ _) => none
  | .engine => none
  | .reset => none

/-- A program's encoding: its register writes in program order (R62). -/
def scriptEncoding (p : Platform) (es : List Event) : List (Nat × Word) := es.filterMap (registerWrite p)

end Sys2Proof.Machine
end

