-- ==== Sys2Proof/Safety.lean ====
section
/-! DEFINITION. What the claims call a consistent state, a lawful host access and the invariant
(10_state.md R21 to R27, R40; 60_exceptions.md R114). -/

namespace Sys2Proof.Safety

open Sys2Proof.Machine

/-- STATUS and CMD as R21 to R27 say they stand together: ERR says whether ERRCODE is an error; while BUSY neither
DONE nor an error is shown and CMD reads back the latched word. -/
def StatusConsistent (s : State) : Prop :=
  s.status.err = (s.status.code != .noError) ∧
    (s.status.busy = true → s.status.done = false ∧ s.status.code = .noError ∧ s.cmd = s.latched.cmd)

/-- With BUSY = 0 and DONE = 0 no command has run since reset: CMD, LOST, ERRCODE and the results are 0 (R21, R24,
R39). -/
def FreshAfterReset (s : State) : Prop :=
  s.status.busy = false → s.status.done = false →
    s.cmd = 0 ∧ s.status.lost = false ∧ s.status.code = .noError ∧ s.res0 = 0 ∧ s.res1 = 0 ∧ s.res2 = 0

/-- The memory has its canonical form and lists only bytes of the data window (R40, R42). -/
def MemInWindow (s : State) : Prop :=
  memWf s.mem = true ∧
    ∀ c ∈ s.mem, s.platform.memBase ≤ c.1 ∧ c.1 < s.platform.memBase + s.platform.memSize

/-- The invariant of the machine: the platform meets R8 and the state is consistent. -/
def Inv (s : State) : Prop :=
  s.platform.Admissible ∧ StatusConsistent s ∧ FreshAfterReset s ∧ MemInWindow s

/-- A host access QACT gives a meaning: one aligned 32-bit register access, or bytes of the data window (R19, R42). -/
def LawfulAccess (p : Platform) : HostAction → Prop
  | .read a n => targetOf p (u32 a) n ≠ .badRegister ∧ targetOf p (u32 a) n ≠ .outside
  | .write a n _ => targetOf p (u32 a) n ≠ .badRegister ∧ targetOf p (u32 a) n ≠ .outside

/-- An event QACT gives a meaning. -/
def LawfulEvent (p : Platform) : Event → Prop
  | .host act => LawfulAccess p act
  | .engine => True
  | .reset => True

/-- The next event, if there is one, is lawful. -/
def LawfulNext (s : State) : Prop := ∀ e ∈ s.inputs.head?, LawfulEvent s.platform e

end Sys2Proof.Safety
end

