-- ==== Sys2Proof/Certificates/Slice0/Obligations.lean ====
section
/-! DEFINITION. What is claimed of the model, for the provers: each statement formalises rules of spec/, in integers
and literals of its own (the helpers of Sys2Proof.Stated), and holds in every state its hypotheses admit. -/

namespace Sys2Proof.Stated

open Sys2Proof.Machine

/-! Helpers: the arithmetic of the rules on integers, with every literal written out. -/

/-- v clamped to [lo, hi]. -/
def clamp (lo hi v : Int) : Int := max lo (min hi v)

/-- Clamped to 32 bits signed (R12). -/
def clamp32 (v : Int) : Int := clamp (-2147483648) 2147483647 v

/-- A product of two Q31 values back in Q31, rounded half up, not yet clamped (R64). -/
def rounded (p : Int) : Int := (p + 1073741824) / 2147483648

/-- The converted value of a Q31 value y (R65); Q16.15 never saturates a 32-bit y. The reserved format converts
nothing, and no statement asks for it. -/
def converted : OutFmt → Int → Int
  | .q7, y => clamp (-128) 127 ((y + 8388608) / 16777216)
  | .q15, y => clamp (-32768) 32767 ((y + 32768) / 65536)
  | .q16_15, y => (y + 32768) / 65536
  | .reserved, _ => 0

/-- Bytes of an output element (R43). -/
def elemBytes : OutFmt → Nat
  | .q7 => 1
  | .q15 => 2
  | .q16_15 => 4
  | .reserved => 0

/-- STATUS after a command completes without error (R107). -/
def okStatus (st : Status) : Status := ⟨false, true, false, st.lost, .noError⟩

/-- s after its command completes with error c: STATUS alone changes (R107). -/
def failed (s : State) (c : ErrCode) : State := { s with status := ⟨false, true, true, s.status.lost, c⟩ }

/-- a of the latched record. -/
def argA (s : State) : Int := s.latched.opa.toInt

/-- b of the latched record. -/
def argB (s : State) : Int := s.latched.opb.toInt

/-- N of the latched record. -/
def argN (s : State) : Int := s.latched.len.toInt

/-- First address of IN. -/
def argSrc (s : State) : Nat := s.latched.src.toNat

/-- First address of OUT. -/
def argDst (s : State) : Nat := s.latched.dst.toNat

/-- s with another latched OPA. -/
def withOpa (s : State) (a : Word) : State := { s with latched := { s.latched with opa := a } }

/-- s with other latched OPA and OPB. -/
def withOpaOpb (s : State) (a b : Word) : State := { s with latched := { s.latched with opa := a, opb := b } }

/-- Input element i of a kernel, from the data window (R44). -/
def inElem (s : State) (i : Nat) : Int := (BitVec.ofNat 32 (memRead s.mem (argSrc s + 4 * i) 4)).toInt

/-- Output element i of a kernel as the w bytes it holds (R44). -/
def outElem (s : State) (w i : Nat) : Nat := memRead s.mem (argDst s + w * i) w

/-- The address b is none of OUT's w*N bytes (R45). -/
def OutsideOut (s : State) (w b : Nat) : Prop := b < argDst s ∨ argDst s + w * (argN s).toNat ≤ b

/-- i is a kernel with output format f. -/
def IsKernel (i : Instr) (f : OutFmt) : Prop := i = .vsigmoid f ∨ i = .vtanh f ∨ i = .vsoftmax f

/-- The first entry check that fails for a kernel with w-byte outputs (R104). -/
def entryError (s : State) (w : Nat) : ErrCode :=
  if argN s ≤ 0 then .len
  else if argSrc s = 0 ∨ argDst s = 0 then .null
  else if ¬ (4 ∣ argSrc s ∧ w ∣ argDst s) then .align
  else if (argSrc s : Int) < s.platform.memBase ∨ s.platform.memBase + s.platform.memSize < argSrc s + 4 * argN s ∨
      (argDst s : Int) < s.platform.memBase ∨ s.platform.memBase + s.platform.memSize < argDst s + w * argN s then .range
  else if (argSrc s : Int) < argDst s + w * argN s ∧ (argDst s : Int) < argSrc s + 4 * argN s then .aliased
  else .noError

/-- A kernel with this format passes its entry checks, and the host kept its duty while it ran (R51, R104). -/
def Ready (s : State) (f : OutFmt) : Prop :=
  f.wellFormed = true ∧ entryError s (elemBytes f) = .noError ∧ s.disturbed = false ∧ memWf s.mem = true

/-- A kernel completes with the first entry check that fails, and nothing else changes (R104). The host kept its
duty of R51; DisturbedOutIsAnyValue says what happens where it did not. -/
def KernelErrors (mk : OutFmt → Instr) : Prop :=
  ∀ (s : State) (f : OutFmt), f ≠ .reserved → s.disturbed = false → entryError s (elemBytes f) ≠ .noError →
    exec (mk f) s = .next (failed s (entryError s (elemBytes f)))

/-- A command is running and the engine takes its execute step next (R36 step 2). -/
def EngineTurn (s : State) : Prop := s.status.busy = true ∧ ∃ es, s.inputs = .engine :: es

/-- s with the next event taken off the schedule. -/
def turned (s : State) : State := { s with inputs := s.inputs.tail }

/-- A running word with operation code op, of a command without an output format, runs i exactly when it is op; with
any other bit set it is error ILLEGAL (R58, R60). -/
def PlainEncoding (i : Instr) (op : Nat) : Prop :=
  encode i = BitVec.ofNat 32 op ∧
    ∀ s : State, EngineTurn s → s.latched.cmd.toNat % 64 = op →
      step s = if s.latched.cmd.toNat = op then exec i (turned s) else .next (failed (turned s) .illegal)

/-- The running words with the operation code op of a command with an output format: OFMT 0, 1, 2 select it, 3 is
error FMT, a reserved bit is error ILLEGAL (R58, R60). -/
def FormattedEncoding (mk : OutFmt → Instr) (op : Nat) : Prop :=
  encode (mk .q7) = BitVec.ofNat 32 op ∧ encode (mk .q15) = BitVec.ofNat 32 (256 + op) ∧
    encode (mk .q16_15) = BitVec.ofNat 32 (512 + op) ∧
    ∀ s : State, EngineTurn s → s.latched.cmd.toNat % 64 = op →
      let c := s.latched.cmd.toNat
      step s =
        if c / 64 % 4 ≠ 0 ∨ 1024 ≤ c then .next (failed (turned s) .illegal)
        else if c / 256 = 0 then exec (mk .q7) (turned s)
        else if c / 256 = 1 then exec (mk .q15) (turned s)
        else if c / 256 = 2 then exec (mk .q16_15) (turned s)
        else .next (failed (turned s) .fmt)

/-- The 25 texts of commands with what they name and their words (R57, R61). -/
def asmTable : List (String × Instr × Nat) :=
  [("RSHR", .rshr, 0x001), ("MULQ31", .mulq31, 0x003), ("RRED_SIG", .rredSig, 0x004),
    ("RRED_TANH", .rredTanh, 0x005), ("POLY", .poly, 0x006), ("ANTILOG", .antilog, 0x007),
    ("RECIP", .recip, 0x008)] ++
  [("SATCVT.Q7", .satcvt .q7, 0x002), ("SATCVT.Q15", .satcvt .q15, 0x102),
    ("SATCVT.Q16_15", .satcvt .q16_15, 0x202), ("SIG1.Q7", .sig1 .q7, 0x009), ("SIG1.Q15", .sig1 .q15, 0x109),
    ("SIG1.Q16_15", .sig1 .q16_15, 0x209), ("TANH1.Q7", .tanh1 .q7, 0x00A), ("TANH1.Q15", .tanh1 .q15, 0x10A),
    ("TANH1.Q16_15", .tanh1 .q16_15, 0x20A)] ++
  [("VSIGMOID.Q7", .vsigmoid .q7, 0x010), ("VSIGMOID.Q15", .vsigmoid .q15, 0x110),
    ("VSIGMOID.Q16_15", .vsigmoid .q16_15, 0x210), ("VTANH.Q7", .vtanh .q7, 0x011),
    ("VTANH.Q15", .vtanh .q15, 0x111), ("VTANH.Q16_15", .vtanh .q16_15, 0x211),
    ("VSOFTMAX.Q7", .vsoftmax .q7, 0x012), ("VSOFTMAX.Q15", .vsoftmax .q15, 0x112),
    ("VSOFTMAX.Q16_15", .vsoftmax .q16_15, 0x212)]

/-- The number of each error code in STATUS.ERRCODE (R105). -/
def codeNumber : ErrCode → Nat
  | .noError => 0
  | .illegal => 1
  | .fmt => 2
  | .len => 3
  | .null => 4
  | .align => 5
  | .range => 6
  | .aliased => 7
  | .shamt => 8

/-- How many of RES0, RES1, RES2 a command's rule names (R57, the column "writes"). -/
def resCount : Instr → Nat
  | .rshr => 1
  | .satcvt _ => 1
  | .mulq31 => 1
  | .rredSig => 3
  | .rredTanh => 3
  | .poly => 1
  | .antilog => 3
  | .recip => 3
  | .sig1 _ => 2
  | .tanh1 _ => 2
  | .vsigmoid _ => 0
  | .vtanh _ => 0
  | .vsoftmax _ => 3

/-- The step s to t starts a command (R36). -/
def Starts (s t : State) : Prop := s.status.busy = false ∧ t.status.busy = true

/-- The step from s is a reset (R115). -/
def Resets (s : State) : Prop := ∃ es, s.inputs = .reset :: es

/-- The step s to t completes a command (R36). -/
def Completes (s t : State) : Prop := s.status.busy = true ∧ t.status.busy = false ∧ ¬ Resets s

/-- The event is a host write of one 32-bit word to CMD (R20, R36). -/
def WritesCmd (p : Platform) (e : Event) : Prop := ∃ (a : Word) (v : Nat), e = .host (.write a 4 v) ∧ a.toNat = p.regBase

/-- The step from s is a CMD write while BUSY, which is lost (R26). -/
def LosesCommand (s : State) : Prop :=
  s.status.busy = true ∧ ∃ e es, s.inputs = e :: es ∧ WritesCmd s.platform e

/-- Range reduction with scale constant k (R70): sign in RES0, and n in RES1, d in RES2 with n·2^31 + d = 256·t,
where t is |a|·k rounded to Q31 and |a| is the clamped magnitude. -/
def ReducesWith (i : Instr) (k : Int) : Prop :=
  ∀ s : State, ∃ sign n d : Word,
    exec i s = .next { s with res0 := sign, res1 := n, res2 := d, status := okStatus s.status } ∧
      sign.toInt = (if argA s < 0 then 1 else 0) ∧ 0 ≤ n.toInt ∧ 0 ≤ d.toInt ∧
      n.toInt * 2147483648 + d.toInt = 256 * rounded (min 2147483647 (max (argA s) (-argA s)) * k)

/-- The value a host read of offset off gives, but for STATUS (R20, R33, R34). -/
def offsetValue (s : State) : Nat → Word
  | 0x00 => s.cmd
  | 0x08 => s.src
  | 0x0C => s.dst
  | 0x10 => s.len
  | 0x14 => s.opa
  | 0x18 => s.opb
  | 0x1C => s.res0
  | 0x20 => s.res1
  | 0x24 => s.res2
  | 0x40 => 0x00E01400
  | 0x44 => 0xF9312F00
  | 0x48 => 0x1EA42B00
  | 0x4C => 0xA74AD100
  | 0x50 => 0x7FFFFFFF
  | 0x54 => 0x7AE147AE
  | 0x58 => 0x2E2A8ECA
  | 0x5C => 0x5C551D95
  | _ => 0

/-- s after a host write of v at offset off (R19, R21, R26, R28 to R31, R34, R36). -/
def offsetWritten (s : State) (v : Word) : Nat → State
  | 0x00 =>
    if s.status.busy then { s with status := { s.status with lost := true } }
    else { s with
      cmd := v, latched := ⟨v, s.src, s.dst, s.len, s.opa, s.opb⟩,
      status := ⟨true, false, false, false, .noError⟩, disturbed := false }
  | 0x08 => { s with src := v }
  | 0x0C => { s with dst := v }
  | 0x10 => { s with len := v }
  | 0x14 => { s with opa := v }
  | 0x18 => { s with opb := v }
  | _ => s

/-- The address a is REG_BASE + off, off naturally aligned in the 256-byte block (R19). -/
def AtOffset (s : State) (a : Word) (off : Nat) : Prop :=
  s.platform.Admissible ∧ a.toNat = s.platform.regBase + off ∧ off % 4 = 0 ∧ off < 256

/-- The n bytes from a lie in the data window (R47). -/
def AtWindow (s : State) (a : Word) (n : Nat) : Prop :=
  s.platform.Admissible ∧ 0 < n ∧ s.platform.memBase ≤ a.toNat ∧
    a.toNat + n ≤ s.platform.memBase + s.platform.memSize

/-- The byte b lies in OUT of the running command (R45, R51). -/
def RunningOutByte (s : State) (b : Nat) : Prop :=
  s.status.busy = true ∧ ∃ i f, decode s.latched.cmd = .ok i ∧ IsKernel i f ∧
    argDst s ≤ b ∧ b < argDst s + elemBytes f * (argN s).toNat

/-- The byte b lies in IN of the running command (R45, R51). -/
def RunningInByte (s : State) (b : Nat) : Prop :=
  s.status.busy = true ∧ ∃ i f, decode s.latched.cmd = .ok i ∧ IsKernel i f ∧
    argSrc s ≤ b ∧ b < argSrc s + 4 * (argN s).toNat

/-- The error code a running command word reports, in the order of R106. -/
def reportedError (s : State) : ErrCode :=
  let c := s.latched.cmd.toNat
  let op := c % 64
  let formatted : Bool := op == 2 || op == 9 || op == 10 || op == 16 || op == 17 || op == 18
  let plain : Bool := op == 1 || (3 ≤ op && op ≤ 8)
  if 1024 ≤ c ∨ c / 64 % 4 ≠ 0 ∨ (formatted = false ∧ plain = false) ∨ (plain = true ∧ c / 256 ≠ 0) then .illegal
  else if formatted = true ∧ c / 256 = 3 then .fmt
  else if op = 1 ∧ ¬ (0 ≤ argB s ∧ argB s ≤ 31) then .shamt
  else if 16 ≤ op then entryError s (2 ^ (c / 256))
  else .noError

/-- One run of the given number of steps. -/
def run (k : Nat) (s : State) : Host.Outcome State Fault Refusal := Sys2Proof.core.run k s

end Sys2Proof.Stated

open Sys2Proof Sys2Proof.Machine Sys2Proof.Safety Sys2Proof.Stated

/-! ### Encoding -/

/-- Words written out bit by bit from the field layout and the opcode map decode to their commands (R55, R57). -/
def Obligations.WrittenOutWordsDecode : Prop :=
  decode 0b00000000000000000000000000000001#32 = .ok .rshr ∧
    decode 0b00000000000000000000001000000010#32 = .ok (.satcvt .q16_15) ∧
    decode 0b00000000000000000000000000000101#32 = .ok .rredTanh ∧
    decode 0b00000000000000000000000000000111#32 = .ok .antilog ∧
    decode 0b00000000000000000000000000001000#32 = .ok .recip ∧
    decode 0b00000000000000000000000100001001#32 = .ok (.sig1 .q15) ∧
    decode 0b00000000000000000000001000010001#32 = .ok (.vtanh .q16_15) ∧
    decode 0b00000000000000000000000000010010#32 = .ok (.vsoftmax .q7)

/-- Every word means at most one command, and every well-formed command is what its encoding decodes to: a word
decodes to i exactly when i is well formed and the word is i's encoding (R55 to R58, R61). -/
def Obligations.DecodeIffEncodes : Prop :=
  ∀ (c : Word) (i : Instr), decode c = .ok i ↔ i.wellFormed = true ∧ encode i = c

/-- Which words are ILLEGAL and which FMT (R60), and that the engine then reports code 1 or 2 with no other
effect. -/
def Obligations.IllegalAndFmtWordsOnlyReport : Prop :=
  (∀ c : Word, decode c = .illegal ↔
    c.extractLsb' 10 22 ≠ 0 ∨ c.extractLsb' 6 2 ≠ 0 ∨ c.extractLsb' 0 6 = 0 ∨
      (0x0B ≤ c.extractLsb' 0 6 ∧ c.extractLsb' 0 6 ≤ 0x0F) ∨ 0x13 ≤ c.extractLsb' 0 6 ∨
      (c.extractLsb' 8 2 ≠ 0 ∧
        c.extractLsb' 0 6 ∈ ([0x01, 0x03, 0x04, 0x05, 0x06, 0x07, 0x08] : List (BitVec 6)))) ∧
    (∀ c : Word, decode c = .fmt ↔
      c.extractLsb' 10 22 = 0 ∧ c.extractLsb' 6 2 = 0 ∧ c.extractLsb' 8 2 = 3 ∧
        c.extractLsb' 0 6 ∈ ([0x02, 0x09, 0x0A, 0x10, 0x11, 0x12] : List (BitVec 6))) ∧
    ∀ s : State, EngineTurn s →
      (decode s.latched.cmd = .illegal → step s = .next (failed (turned s) .illegal)) ∧
        (decode s.latched.cmd = .fmt → step s = .next (failed (turned s) .fmt))

/-- The assembler (R61): a text names a command exactly when the table has the two in one row, so the suffix is
required where there is a format and refused where there is none; and the row's word is the command's encoding. -/
def Obligations.AssemblerFollowsTable : Prop :=
  (∀ (text : String) (i : Instr), assemble text = some i ↔ ∃ w, (text, i, w) ∈ asmTable) ∧
    ∀ (text : String) (i : Instr) (w : Nat), (text, i, w) ∈ asmTable →
      encode i = BitVec.ofNat 32 w ∧ decode (BitVec.ofNat 32 w) = .ok i

/-! ### Scalar commands: each completes, with these results and nothing else changed -/

/-- RSHR (R67): rounding half toward plus infinity, or SHAMT. -/
def Obligations.RshrRoundsOrReportsShamt : Prop :=
  PlainEncoding .rshr 0x01 ∧ ∀ s : State,
    (¬ (0 ≤ argB s ∧ argB s ≤ 31) → exec .rshr s = .next (failed s .shamt)) ∧
      (0 ≤ argB s ∧ argB s ≤ 31 → ∃ r : Word,
        exec .rshr s = .next { s with res0 := r, status := okStatus s.status } ∧
          (argB s = 0 → r = s.latched.opa) ∧
          (0 < argB s →
            2 ^ (argB s).toNat * r.toInt ≤ argA s + 2 ^ ((argB s).toNat - 1) ∧
              argA s + 2 ^ ((argB s).toNat - 1) < 2 ^ (argB s).toNat * (r.toInt + 1) ∧
              -1073741824 ≤ r.toInt ∧ r.toInt ≤ 1073741824))

/-- SATCVT (R68): the converted value, sign-extended; FMT for the reserved format. -/
def Obligations.SatcvtConverts : Prop :=
  FormattedEncoding .satcvt 0x02 ∧ ∀ s : State,
    exec (.satcvt .reserved) s = .next (failed s .fmt) ∧
      ∀ f : OutFmt, f.wellFormed = true → ∃ r : Word, r.toInt = converted f (argA s) ∧
        exec (.satcvt f) s = .next { s with res0 := r, status := okStatus s.status }

/-- MULQ31 (R69): the rounded product; only -2^31 times -2^31 saturates. -/
def Obligations.Mulq31Multiplies : Prop :=
  PlainEncoding .mulq31 0x03 ∧ ∀ s : State, ∃ r : Word,
    exec .mulq31 s = .next { s with res0 := r, status := okStatus s.status } ∧
      (argA s = -2147483648 ∧ argB s = -2147483648 → r.toInt = 2147483647) ∧
      (¬ (argA s = -2147483648 ∧ argB s = -2147483648) → r.toInt = rounded (argA s * argB s))

/-- RRED_SIG (R76). -/
def Obligations.RredSigReduces : Prop := PlainEncoding .rredSig 0x04 ∧ ReducesWith .rredSig 774541002

/-- RRED_TANH (R77). -/
def Obligations.RredTanhReduces : Prop := PlainEncoding .rredTanh 0x05 ∧ ReducesWith .rredTanh 1549082005

/-- The ranges of the reduced pair (R72); t = n·2^23 + d/256. -/
def Obligations.ReducedPairRanges : Prop :=
  ∀ s t : State,
    (exec .rredSig s = .next t → 0 ≤ t.res1.toInt ∧ t.res1.toInt ≤ 92 ∧
      t.res1.toInt * 8388608 + t.res2.toInt / 256 ≤ 774541002) ∧
      (exec .rredTanh s = .next t → 0 ≤ t.res1.toInt ∧ t.res1.toInt ≤ 184 ∧
        t.res1.toInt * 8388608 + t.res2.toInt / 256 ≤ 1549082005) ∧
      (exec .rredSig s = .next t ∨ exec .rredTanh s = .next t →
        (t.res0.toInt = 0 ∨ t.res0.toInt = 1) ∧ 0 ≤ t.res2.toInt ∧ t.res2.toInt ≤ 2147483392 ∧
          t.res2.toInt % 256 = 0)

/-- POLY (R82): four multiply-accumulate steps, one rounding and one clamp each. -/
def Obligations.PolyEvaluatesHorner : Prop :=
  PlainEncoding .poly 0x06 ∧ ∀ s : State, ∃ r : Word,
    exec .poly s = .next { s with res0 := r, status := okStatus s.status } ∧
      r.toInt =
        (let d := argA s
         let y1 := clamp32 (-114217216 + rounded (14685184 * d))
         let y2 := clamp32 (514075392 + rounded (y1 * d))
         let y3 := clamp32 (-1488269056 + rounded (y2 * d))
         clamp32 (2147483647 + rounded (y3 * d)))

/-- On [0, 1) no step of POLY saturates, and the result is a positive Q31 value (R78, R79). -/
def Obligations.PolyNeverSaturatesOnUnit : Prop :=
  ∀ s : State, 0 ≤ argA s → ∃ r : Word,
    exec .poly s = .next { s with res0 := r, status := okStatus s.status } ∧ 0 < r.toInt ∧
      r.toInt =
        (let d := argA s
         let y1 := -114217216 + rounded (14685184 * d)
         let y2 := 514075392 + rounded (y1 * d)
         let y3 := -1488269056 + rounded (y2 * d)
         2147483647 + rounded (y3 * d))

/-- ANTILOG (R83) is RRED_SIG, POLY on its fraction, and a truncating shift by its exponent. -/
def Obligations.AntilogComposes : Prop :=
  PlainEncoding .antilog 0x07 ∧ ∀ s : State, ∃ (t1 t2 : State) (e : Word),
    exec .rredSig s = .next t1 ∧ exec .poly (withOpa s t1.res2) = .next t2 ∧
      exec .antilog s = .next
        { s with res0 := e, res1 := t2.res0, res2 := t1.res1, status := okStatus s.status } ∧
      e.toInt = t2.res0.toInt / 2 ^ t1.res1.toInt.toNat

/-- ANTILOG is a Q31 value in [0, 2^31 - 1], 0 once n >= 31, 2^31 - 1 at x = 0, and even in x (R81, R83). -/
def Obligations.AntilogRangeAndEvenness : Prop :=
  (∀ s t : State, exec .antilog s = .next t → 0 ≤ t.res0.toInt ∧ (31 ≤ t.res2.toInt → t.res0 = 0) ∧
    (argA s = 0 ∨ argA s = 1 ∨ argA s = -1 → t.res0.toInt = 2147483647)) ∧
    ∀ (s : State) (a : Word) (t u : State), a.toInt = -argA s →
      exec .antilog s = .next t → exec .antilog (withOpa s a) = .next u → u.res0 = t.res0

/-- RECIP (R88): the seed and exactly two Newton-Raphson steps, each e and each y clamped once. -/
def Obligations.RecipRefinesTwice : Prop :=
  PlainEncoding .recip 0x08 ∧ ∀ s : State, ∃ w0 w1 w2 : Word,
    exec .recip s = .next { s with res0 := w2, res1 := w0, res2 := w1, status := okStatus s.status } ∧
      w0.toInt = clamp32 (2061584302 - argA s / 2) ∧
      (∀ y y' : Int, (y, y') = (w0.toInt, w1.toInt) ∨ (y, y') = (w1.toInt, w2.toInt) →
        y' = clamp32 (y + clamp32 (rounded (y *
          clamp32 (2147483647 - y - clamp32 (rounded (y * argA s)))))))

/-- On the working domain [0, 1) no stage of RECIP saturates, and every estimate is a Q31 value that is not
negative (R84, R85, R87). -/
def Obligations.RecipNeverSaturatesOnUnit : Prop :=
  ∀ s : State, 0 ≤ argA s → ∃ w0 w1 w2 : Word,
    exec .recip s = .next { s with res0 := w2, res1 := w0, res2 := w1, status := okStatus s.status } ∧
      w0.toInt = 2061584302 - argA s / 2 ∧
      (∀ y y' : Int, (y, y') = (w0.toInt, w1.toInt) ∨ (y, y') = (w1.toInt, w2.toInt) →
        0 ≤ y' ∧ y' = y + rounded (y * (2147483647 - y - rounded (y * argA s))))

/-- SIG1 (R92, R89) is RECIP of ANTILOG, reflected around 1 for a negative input, and its conversion. -/
def Obligations.Sig1Composes : Prop :=
  FormattedEncoding .sig1 0x09 ∧ ∀ s : State,
    exec (.sig1 .reserved) s = .next (failed s .fmt) ∧
      ∀ f : OutFmt, f.wellFormed = true → ∃ (t1 t2 : State) (y q : Word),
        exec .antilog s = .next t1 ∧ exec .recip (withOpa s t1.res0) = .next t2 ∧
          exec (.sig1 f) s = .next { s with res0 := y, res1 := q, status := okStatus s.status } ∧
          y.toInt = (if argA s < 0 then 2147483647 - t2.res0.toInt else t2.res0.toInt) ∧
          q.toInt = converted f y.toInt

/-- TANH1 (R93, R90) is (1 - z) times RECIP of z for z = POLY of RRED_TANH's fraction shifted by its exponent,
negated for a negative input, and its conversion. -/
def Obligations.Tanh1Composes : Prop :=
  FormattedEncoding .tanh1 0x0A ∧ ∀ s : State,
    exec (.tanh1 .reserved) s = .next (failed s .fmt) ∧
      ∀ f : OutFmt, f.wellFormed = true → ∃ (t1 t2 t3 t4 : State) (z z' y q : Word),
        exec .rredTanh s = .next t1 ∧ exec .poly (withOpa s t1.res2) = .next t2 ∧
          z.toInt = t2.res0.toInt / 2 ^ t1.res1.toInt.toNat ∧ z'.toInt = 2147483647 - z.toInt ∧
          exec .recip (withOpa s z) = .next t3 ∧ exec .mulq31 (withOpaOpb s z' t3.res0) = .next t4 ∧
          exec (.tanh1 f) s = .next { s with res0 := y, res1 := q, status := okStatus s.status } ∧
          y.toInt = (if argA s < 0 then -t4.res0.toInt else t4.res0.toInt) ∧
          q.toInt = converted f y.toInt

/-- The Q31 sigmoid lies in [0, ONE], the Q31 tanh in [-ONE, ONE] (R91). -/
def Obligations.ActivationRanges : Prop :=
  ∀ (s t : State) (f : OutFmt), f.wellFormed = true →
    (exec (.sig1 f) s = .next t → 0 ≤ t.res0.toInt ∧ t.res0.toInt ≤ 2147483647) ∧
      (exec (.tanh1 f) s = .next t → -2147483647 ≤ t.res0.toInt ∧ t.res0.toInt ≤ 2147483647)

/-- The symmetries: σ(-x) = 1 - σ(x) for x > 0, and tanh is odd, for every x but -2^31 (R89, R90, R96). -/
def Obligations.ActivationSymmetry : Prop :=
  ∀ (s : State) (a : Word) (f : OutFmt) (t u : State), f.wellFormed = true → a.toInt = -argA s →
    (0 < argA s → exec (.sig1 f) s = .next t → exec (.sig1 f) (withOpa s a) = .next u →
      u.res0.toInt = 2147483647 - t.res0.toInt) ∧
      (exec (.tanh1 f) s = .next t → exec (.tanh1 f) (withOpa s a) = .next u →
        u.res0.toInt = -t.res0.toInt)

/-- A scalar command depends on no memory and on no SRC, DST or LEN, live or latched, nor on the live OPA and OPB: of
the operands, on the latched OPA and OPB alone. A kernel depends on no OPA or OPB, live or latched, nor on the live
SRC, DST and LEN (R35, R59). What differs is carried to the next state as it was. -/
def Obligations.CommandsReadOnlyTheirOperands : Prop :=
  (∀ (i : Instr) (s t : State) (m : Memory) (src dst len opa opb lsrc ldst llen : Word),
    i.opcode < 0x10 → exec i s = .next t →
    exec i { s with
        mem := m, src := src, dst := dst, len := len, opa := opa, opb := opb,
        latched := { s.latched with src := lsrc, dst := ldst, len := llen } } =
      .next { t with
        mem := m, src := src, dst := dst, len := len, opa := opa, opb := opb,
        latched := { t.latched with src := lsrc, dst := ldst, len := llen } }) ∧
    ∀ (i : Instr) (s t : State) (src dst len opa opb lopa lopb : Word), 0x10 ≤ i.opcode → exec i s = .next t →
      exec i { s with
          src := src, dst := dst, len := len, opa := opa, opb := opb,
          latched := { s.latched with opa := lopa, opb := lopb } } =
        .next { t with
          src := src, dst := dst, len := len, opa := opa, opb := opb,
          latched := { t.latched with opa := lopa, opb := lopb } }

/-! ### Kernels -/

/-- Which code a kernel reports (R104): that of the first entry check that fails, with no other change, and 0 when
none does; the reserved format is reported before any of them (R106). -/
def Obligations.KernelEntryChecks : Prop :=
  ∀ (i : Instr) (f : OutFmt) (s : State), IsKernel i f →
    (f = .reserved → exec i s = .next (failed s .fmt)) ∧
      (f ≠ .reserved → ∃ t, exec i s = .next t ∧ t.status.code = entryError s (elemBytes f) ∧
        (t.status.code ≠ .noError → s.disturbed = false → t = failed s t.status.code))

/-- VSIGMOID (R94, R95) reports the first entry check that fails, or writes to element i of OUT what SIG1 gives for
element i of IN, and changes nothing else. -/
def Obligations.VsigmoidMapsSig1 : Prop :=
  FormattedEncoding .vsigmoid 0x10 ∧ KernelErrors .vsigmoid ∧ ∀ (s : State) (f : OutFmt), Ready s f → ∃ t : State,
    exec (.vsigmoid f) s = .next t ∧ t = { s with mem := t.mem, status := okStatus s.status } ∧
      (∀ i, i < (argN s).toNat → ∃ u : State,
        exec (.sig1 f) (withOpa s (BitVec.ofInt 32 (inElem s i))) = .next u ∧
          outElem t (elemBytes f) i = u.res1.toNat % 256 ^ elemBytes f) ∧
      ∀ b, OutsideOut s (elemBytes f) b → readByte t.mem b = readByte s.mem b

/-- VTANH (R94, R96) reports the first entry check that fails, or writes to element i of OUT what TANH1 gives for
element i of IN, and changes nothing else. -/
def Obligations.VtanhMapsTanh1 : Prop :=
  FormattedEncoding .vtanh 0x11 ∧ KernelErrors .vtanh ∧ ∀ (s : State) (f : OutFmt), Ready s f → ∃ t : State,
    exec (.vtanh f) s = .next t ∧ t = { s with mem := t.mem, status := okStatus s.status } ∧
      (∀ i, i < (argN s).toNat → ∃ u : State,
        exec (.tanh1 f) (withOpa s (BitVec.ofInt 32 (inElem s i))) = .next u ∧
          outElem t (elemBytes f) i = u.res1.toNat % 256 ^ elemBytes f) ∧
      ∀ b, OutsideOut s (elemBytes f) b → readByte t.mem b = readByte s.mem b

/-- VSOFTMAX (R97 to R103): the first entry check that fails; else the maximum m; e_i from ANTILOG of the saturated
difference; their exact sum S, normalised to 2^(31+es) times a mantissa in [1, 2); r from RECIP of the mantissa's
fraction; the outputs; and nothing else changed. -/
def Obligations.VsoftmaxComputes : Prop :=
  FormattedEncoding .vsoftmax 0x12 ∧ KernelErrors .vsoftmax ∧ ∀ (s : State) (f : OutFmt), Ready s f →
    ∃ (t : State) (m es xs : Int) (e o : Nat → Int) (r : Word),
      (∃ i, i < (argN s).toNat ∧ inElem s i = m) ∧ (∀ i, i < (argN s).toNat → inElem s i ≤ m) ∧
      (∀ i, i < (argN s).toNat → ∃ u : State,
        exec .antilog (withOpa s (BitVec.ofInt 32 (max (-2147483648) (inElem s i - m)))) = .next u ∧
          e i = u.res0.toInt) ∧
      (let sum := ((List.range (argN s).toNat).map e).sum
       0 ≤ es + 1 ∧ 2 ^ (es + 31).toNat ≤ sum ∧ sum < 2 ^ (es + 32).toNat ∧
         xs = (if 0 ≤ es then sum / 2 ^ es.toNat else 2 * sum) - 2147483648) ∧
      (0 ≤ xs ∧ xs ≤ 2147483647) ∧
      (∃ u : State, exec .recip (withOpa s (BitVec.ofInt 32 xs)) = .next u ∧ r = u.res0) ∧
      (∀ i, i < (argN s).toNat → o i =
        if 0 ≤ es then rounded (e i * r.toInt) / 2 ^ es.toNat
        else min 2147483647 (2 * rounded (e i * r.toInt))) ∧
      exec (.vsoftmax f) s = .next t ∧
      t = { s with
        mem := t.mem, res0 := BitVec.ofInt 32 m, res1 := r, res2 := BitVec.ofInt 32 es,
        status := okStatus s.status } ∧
      (∀ i, i < (argN s).toNat →
        outElem t (elemBytes f) i = (BitVec.ofInt 32 (converted f (o i))).toNat % 256 ^ elemBytes f) ∧
      ∀ b, OutsideOut s (elemBytes f) b → readByte t.mem b = readByte s.mem b

/-- Every output of VSOFTMAX is at least 0: the sign bit of each element of OUT is clear (R103). -/
def Obligations.SoftmaxOutputsNonnegative : Prop :=
  ∀ (s t : State) (f : OutFmt), Ready s f → exec (.vsoftmax f) s = .next t →
    ∀ i, i < (argN s).toNat → 2 * outElem t (elemBytes f) i < 256 ^ elemBytes f

/-- Softmax does not change when every input is shifted by one constant: OUT, RES1 and RES2 are the same, and RES0
shifts (R103, R98). -/
def Obligations.SoftmaxShiftInvariant : Prop :=
  ∀ (s : State) (m : Memory) (f : OutFmt) (c : Int) (t u : State), Ready s f → memWf m = true →
    (∀ i, i < (argN s).toNat → inElem { s with mem := m } i = inElem s i + c) →
    exec (.vsoftmax f) s = .next t → exec (.vsoftmax f) { s with mem := m } = .next u →
      u.res0.toInt = t.res0.toInt + c ∧ u.res1 = t.res1 ∧ u.res2 = t.res2 ∧
        ∀ i, i < (argN s).toNat → outElem u (elemBytes f) i = outElem t (elemBytes f) i

/-- The engine reads only IN: two undisturbed memories that agree on IN give the same STATUS, RES and bytes of OUT
(R45). -/
def Obligations.EngineReadsOnlyIn : Prop :=
  ∀ (i : Instr) (f : OutFmt) (s : State) (m : Memory) (t u : State), IsKernel i f → s.disturbed = false →
    memWf s.mem = true → memWf m = true →
    (∀ b, argSrc s ≤ b → b < argSrc s + 4 * (argN s).toNat → readByte m b = readByte s.mem b) →
    exec i s = .next t → exec i { s with mem := m } = .next u →
      u = { t with mem := u.mem } ∧
        (t.status.code = .noError → ∀ b, ¬ OutsideOut s (elemBytes f) b → readByte u.mem b = readByte t.mem b)

/-- The engine writes only OUT, and only when it completes without error: a scalar command leaves the memory as it
was, a kernel every byte outside OUT, whatever the host did meanwhile, and a command that fails every byte, the host
having kept its duty (R45, R51, R107). DisturbedOutIsAnyValue says what becomes of OUT where it did not. -/
def Obligations.EngineWritesOnlyOut : Prop :=
  ∀ (i : Instr) (s t : State), memWf s.mem = true → exec i s = .next t →
    (i.opcode < 0x10 → t.mem = s.mem) ∧ (t.status.code ≠ .noError → s.disturbed = false → t.mem = s.mem) ∧
      ∀ f, IsKernel i f → ∀ b, OutsideOut s (elemBytes f) b → readByte t.mem b = readByte s.mem b

/-- A kernel that passes its checks and whose buffers the host wrote while it ran (DEDUCED, log 6) still completes
without error; VSIGMOID and VTANH change no RES, and VSOFTMAX's are those of the same command on some other memory that no host write disturbed (R51). What
its OUT then holds, DisturbedOutIsAnyValue says. -/
def Obligations.DisturbedKernelCompletes : Prop :=
  ∀ (s : State) (f : OutFmt), s.disturbed = true → f.wellFormed = true → memWf s.mem = true →
    entryError s (elemBytes f) = .noError →
    (∃ t, exec (.vsigmoid f) s = .next t ∧
      t = { s with mem := t.mem, draws := t.draws, status := okStatus s.status }) ∧
    (∃ t, exec (.vtanh f) s = .next t ∧
      t = { s with mem := t.mem, draws := t.draws, status := okStatus s.status }) ∧
    ∃ (t u : State) (m : Memory), memWf m = true ∧ exec (.vsoftmax f) s = .next t ∧
      exec (.vsoftmax f) { s with mem := m, disturbed := false } = .next u ∧
      t = { s with
        mem := t.mem, draws := t.draws, res0 := u.res0, res1 := u.res1, res2 := u.res2,
        status := okStatus s.status }

/-- A kernel whose IN or OUT the host wrote while it ran completes with the code its entry checks give, and each byte
of its OUT then holds a draw of its own, whether it failed or not; every other byte reads as before, and one that
failed has no other effect (R51, R107).
That R51 is meant for a command that fails too, and there for OUT inside the data window, is the model's reading
(DEDUCED, log 7). -/
def Obligations.DisturbedOutIsAnyValue : Prop :=
  ∀ (i : Instr) (f : OutFmt) (s : State), IsKernel i f → f.wellFormed = true → s.disturbed = true →
    memWf s.mem = true →
    ∃ (t : State) (k lo : Nat), exec i s = .next t ∧ t.status.code = entryError s (elemBytes f) ∧ s.draws ≤ k ∧
      (t.status.code ≠ .noError → t = { failed s t.status.code with mem := t.mem, draws := t.draws }) ∧
      (∀ b, ¬ OutsideOut s (elemBytes f) b → s.platform.memBase ≤ b → b < s.platform.memBase + s.platform.memSize →
        lo ≤ b ∧ k + (b - lo) < t.draws ∧ readByte t.mem b = Config.freeByte (k + (b - lo))) ∧
      ∀ b, OutsideOut s (elemBytes f) b ∨ b < s.platform.memBase ∨ s.platform.memBase + s.platform.memSize ≤ b →
        readByte t.mem b = readByte s.mem b

/-! ### Completion, life cycle and the register block -/

/-- The engine's step in BUSY is exec of the command the latched word decodes to, with that turn off the schedule
(R36); in IDLE its turn executes nothing and changes nothing but the schedule: "none in IDLE" (R36). That a turn in
IDLE is a step at all, and that with nothing scheduled it is the engine's turn (the clauses with inputs = []), are the
model's choices (DESIGN CHOICE, log 2). -/
def Obligations.StepRunsDecodedCommand : Prop :=
  (∀ (s : State) (i : Instr), EngineTurn s → decode s.latched.cmd = .ok i → step s = exec i (turned s)) ∧
    (∀ (s : State) (i : Instr), s.status.busy = true → s.inputs = [] → decode s.latched.cmd = .ok i →
      step s = exec i s) ∧
    (∀ (s : State) (es : List Event), s.status.busy = false → s.inputs = .engine :: es →
      step s = .next { s with inputs := es }) ∧
    ∀ s : State, s.status.busy = false → s.inputs = [] → step s = .next s

/-- The next step from a placed word that decodes runs that command on the operands the registers hold. That a placed
word is a started one is the model's choice (DESIGN CHOICE, log 2). -/
def Obligations.PlacedWordRunsNext : Prop :=
  ∀ (s : State) (w : Nat) (i : Instr), decodeTableWord 32 w = some i →
    step (s.withFetchWord 32 w) =
      exec i { s with
        cmd := BitVec.ofNat 32 w,
        latched := ⟨BitVec.ofNat 32 w, s.src, s.dst, s.len, s.opa, s.opb⟩,
        status := ⟨true, false, false, false, .noError⟩, disturbed := false }

/-- A command reports exactly one error, the first that applies in the order of R106, and none otherwise. -/
def Obligations.FirstErrorIsReported : Prop :=
  ∀ s : State, EngineTurn s → ∃ t, step s = .next t ∧ t.status.code = reportedError s

/-- Completion (R107): BUSY falls, DONE rises, ERR says whether there is a code, LOST stays; and a failed command
leaves RES0 to RES2, the data window and all else but STATUS as they were. Of the window that is said where the host
kept its duty of R51; DisturbedOutIsAnyValue says what happens where it did not. -/
def Obligations.CompletionNeverPartial : Prop :=
  ∀ s : State, EngineTurn s →
    ∃ t, step s = .next t ∧
      t.status = ⟨false, true, t.status.code != .noError, s.status.lost, t.status.code⟩ ∧
      (t.status.code ≠ .noError →
        t = { turned s with status := t.status, mem := t.mem, draws := t.draws } ∧
          (s.disturbed = false → t.mem = s.mem ∧ t.draws = s.draws))

/-- What a command leaves unchanged however it completes: the platform, CMD, SRC, DST, LEN, OPA, OPB, L, the schedule
and what the host was answered (R32, R35, R107). -/
def Obligations.CommandFrameHolds : Prop :=
  ∀ (i : Instr) (s t : State), exec i s = .next t →
    t = { s with
      res0 := t.res0, res1 := t.res1, res2 := t.res2, mem := t.mem, draws := t.draws, status := t.status }

/-- BUSY (R23): the start sets it and nothing else does, completion clears it and nothing else but a reset does. -/
def Obligations.BusyRisesAtStartFallsAtCompletion : Prop :=
  State.reset.status.busy = false ∧
    (∀ (s : State) (v : Word) (es : List Event), s.platform.Admissible → s.status.busy = false →
      s.inputs = scriptWr s.platform .cmd v :: es → ∃ t, step s = .next t ∧ t.status.busy = true) ∧
    (∀ s : State, EngineTurn s → ∃ t, step s = .next t ∧ t.status.busy = false) ∧
    ∀ s t : State, step s = .next t →
      (Starts s t → ∃ a n v es, s.inputs = .host (.write a n v) :: es ∧
        targetOf s.platform a.toNat n = .register 0x00) ∧
      (Completes s t → engineStep (turned s) = .next t)

/-- DONE, ERR and ERRCODE (R24, R25): cleared by the start and by reset, set by completion, else unchanged. -/
def Obligations.DoneErrCodeChangeOnlyAtStartAndCompletion : Prop :=
  State.reset.status.done = false ∧ State.reset.status.err = false ∧ State.reset.status.code = .noError ∧
    ∀ s t : State, step s = .next t →
      (Starts s t ∨ Resets s → t.status.done = false ∧ t.status.err = false ∧ t.status.code = .noError) ∧
      (Completes s t → t.status.done = true ∧ t.status.err = (t.status.code != .noError)) ∧
      (¬ Starts s t → ¬ Resets s → ¬ Completes s t →
        t.status.done = s.status.done ∧ t.status.err = s.status.err ∧ t.status.code = s.status.code)

/-- LOST (R26): 0 at reset; a CMD write while BUSY sets it and does nothing else; a start clears it; completion keeps
it, and so does every step that is no start, no reset and no CMD write while BUSY (R22). -/
def Obligations.LostIsStickyUntilStart : Prop :=
  State.reset.status.lost = false ∧
    (∀ (s : State) (v : Word) (es : List Event), s.platform.Admissible → s.status.busy = true →
      s.inputs = scriptWr s.platform .cmd v :: es →
      step s = .next { s with inputs := es, status := { s.status with lost := true } }) ∧
    (∀ s t : State, step s = .next t → s.status.busy = false → t.status.busy = true → t.status.lost = false) ∧
    (∀ s t : State, step s = .next t → Completes s t → t.status.lost = s.status.lost) ∧
    ∀ s t : State, step s = .next t → ¬ Starts s t → ¬ Resets s → ¬ LosesCommand s →
      t.status.lost = s.status.lost

/-- RES0 to RES2 (R32): 0 at reset; between resets they change only when a command completes without error, and
then only those its rule names. -/
def Obligations.ResultsChangeOnlyAtSuccess : Prop :=
  State.reset.res0 = 0 ∧ State.reset.res1 = 0 ∧ State.reset.res2 = 0 ∧
    (∀ s t : State, step s = .next t → ¬ Resets s →
      (t.res0 = s.res0 ∧ t.res1 = s.res1 ∧ t.res2 = s.res2) ∨
        (Completes s t ∧ t.status.code = .noError ∧ ∃ i, decode s.latched.cmd = .ok i)) ∧
    ∀ (i : Instr) (s t : State), exec i s = .next t →
      (resCount i < 1 → t.res0 = s.res0) ∧ (resCount i < 2 → t.res1 = s.res1) ∧
        (resCount i < 3 → t.res2 = s.res2)

/-- The constants and the reserved offsets (R33, R34): in every state they read as the map says, and a write to one
of them changes nothing. -/
def Obligations.ConstantsAndReservedAreFixed : Prop :=
  ∀ (s : State) (a : Word) (off v : Nat) (es : List Event), AtOffset s a off → 0x28 ≤ off →
    (s.inputs = .host (.read a 4) :: es →
      step s = .next { s with inputs := es, replies := .reg (offsetValue s off) :: s.replies }) ∧
      (s.inputs = .host (.write a 4 v) :: es → step s = .next { s with inputs := es })

/-- A host read of an aligned word of the register block gives the map's value and changes nothing (R20, R33, R34). -/
def Obligations.RegisterBlockReads : Prop :=
  ∀ (s : State) (a : Word) (off : Nat) (es : List Event), AtOffset s a off → off ≠ 0x04 →
    s.inputs = .host (.read a 4) :: es →
    step s = .next { s with inputs := es, replies := .reg (offsetValue s off) :: s.replies }

/-- A host read of STATUS gives the fields at their bits, ERRCODE as the number of R105's table, and 0 at every other
bit (R22, R105). -/
def Obligations.StatusReadsItsFields : Prop :=
  ∀ (s : State) (a : Word) (es : List Event), AtOffset s a 0x04 → s.inputs = .host (.read a 4) :: es →
    ∃ v : Word, step s = .next { s with inputs := es, replies := .reg v :: s.replies } ∧
      v.getLsbD 0 = s.status.busy ∧ v.getLsbD 1 = s.status.done ∧ v.getLsbD 2 = s.status.err ∧
      v.getLsbD 3 = s.status.lost ∧ v.extractLsb' 4 4 = 0 ∧ v.extractLsb' 12 20 = 0 ∧
      (v.extractLsb' 8 4).toNat = codeNumber s.status.code

/-- A host write of an aligned word of the register block: a start, a lost command, an operand, or nothing
(R19, R21, R26, R28 to R31, R34, R36). -/
def Obligations.RegisterBlockWrites : Prop :=
  ∀ (s : State) (a : Word) (off v : Nat) (es : List Event), AtOffset s a off →
    s.inputs = .host (.write a 4 v) :: es →
    step s = .next (offsetWritten { s with inputs := es } (BitVec.ofNat 32 v) off)

/-- Which host accesses are refused: the register block in another way than one aligned word (R19), and addresses
outside both spaces (R42). That an access of 0 bytes strictly inside the register block is refused too is the model's
choice (DESIGN CHOICE, log 21). -/
def Obligations.UnlawfulAccessRefused : Prop :=
  ∀ (s : State) (act : HostAction) (a : Word) (n : Nat) (es : List Event),
    act = .read a n ∨ (∃ v, act = .write a n v) → s.inputs = .host act :: es →
    let touches := a.toNat < s.platform.regBase + 256 ∧ s.platform.regBase < a.toNat + n
    (touches → ¬ (n = 4 ∧ s.platform.regBase ≤ a.toNat ∧ 4 ∣ a.toNat - s.platform.regBase) →
      step s = .refused .registerAccess) ∧
      (¬ touches → n ≠ 0 → ¬ (s.platform.memBase ≤ a.toNat ∧
        a.toNat + n ≤ s.platform.memBase + s.platform.memSize) → step s = .refused .outsideQact)

/-- Nothing else stops the machine: a step whose next event is lawful answers a next state (R109). -/
def Obligations.LawfulStepNeverStops : Prop := ∀ s : State, LawfulNext s → ∃ t, step s = .next t

/-! ### The data window as the host sees it -/

/-- A host write of n bytes in the window is little-endian, changes those bytes only, and disturbs the running
command exactly when one of them is in its IN or OUT (R41, R51). -/
def Obligations.HostWindowWrite : Prop :=
  ∀ (s : State) (a : Word) (n v : Nat) (es : List Event), AtWindow s a n → memWf s.mem = true →
    s.inputs = .host (.write a n v) :: es →
    ∃ t : State, step s = .next t ∧ t = { s with inputs := es, mem := t.mem, disturbed := t.disturbed } ∧
      (∀ j, j < n → readByte t.mem (a.toNat + j) = BitVec.ofNat 8 (v / 256 ^ j)) ∧
      (∀ b, b < a.toNat ∨ a.toNat + n ≤ b → readByte t.mem b = readByte s.mem b) ∧
      (t.disturbed = true ↔ s.disturbed = true ∨
        ∃ b, a.toNat ≤ b ∧ b < a.toNat + n ∧ (RunningInByte s b ∨ RunningOutByte s b))

/-- A host read of n bytes in the window gives the bytes stored, but for a byte of the running command's OUT, of
which nothing but that it is a fresh draw is known (R41, R51). It changes no state but the count of draws. -/
def Obligations.HostWindowRead : Prop :=
  ∀ (s : State) (a : Word) (n : Nat) (es : List Event), AtWindow s a n → s.inputs = .host (.read a n) :: es →
    ∃ (t : State) (v : Nat), step s = .next t ∧
      t = { s with inputs := es, replies := .mem n v :: s.replies, draws := t.draws } ∧ v < 256 ^ n ∧
      (s.status.busy = false → t.draws = s.draws) ∧
      ∀ j, j < n →
        (¬ RunningOutByte s (a.toNat + j) →
          v / 256 ^ j % 256 = (readByte s.mem (a.toNat + j)).toNat) ∧
        (RunningOutByte s (a.toNat + j) →
          ∃ k, s.draws ≤ k ∧ k < t.draws ∧ v / 256 ^ j % 256 = (Config.freeByte k).toNat)

/-! ### Reset -/

/-- Reset (R39, R115): registers to 0, the engine IDLE with DONE 0, the constants as they were, L unspecified, and
every byte of the window as it was but those of an abandoned command's OUT. -/
def Obligations.ResetClearsRegistersKeepsWindow : Prop :=
  ∀ (s : State) (es : List Event), s.inputs = .reset :: es → memWf s.mem = true →
    ∃ t : State, step s = .next t ∧
      t = { s with
        cmd := 0, src := 0, dst := 0, len := 0, opa := 0, opb := 0, res0 := 0, res1 := 0, res2 := 0,
        status := ⟨false, false, false, false, .noError⟩, inputs := es,
        latched := t.latched, mem := t.mem, draws := t.draws, disturbed := false } ∧
      (∀ off, 0x40 ≤ off → readOffset t off = readOffset s off) ∧
      ∀ b, ¬ RunningOutByte s b → readByte t.mem b = readByte s.mem b

/-- Reset while BUSY leaves each byte of the abandoned command's OUT a draw of its own (R52, R116). That OUT is meant
for every kernel word, also one whose checks would have failed, and its part inside the data window, is the model's
reading (DEDUCED, log 8). -/
def Obligations.ResetLeavesAbandonedOutFree : Prop :=
  ∀ (s : State) (es : List Event), s.inputs = .reset :: es → memWf s.mem = true →
    ∃ (t : State) (lo : Nat), step s = .next t ∧
      ∀ b, RunningOutByte s b → s.platform.memBase ≤ b → b < s.platform.memBase + s.platform.memSize →
        lo ≤ b ∧ readByte t.mem b = Config.freeByte (s.draws + (b - lo))

/-- The state after reset reads 0 at every register but the constants and is IDLE (R39). That every byte of the
window then reads 0 is the model's choice, not the spec's (DESIGN CHOICE, log 4). -/
def Obligations.ResetStateReadsZero : Prop :=
  (∀ r : Reg, regOffset r < 0x40 → readReg State.reset r = 0) ∧ State.reset.status.busy = false ∧
    (∀ b, readByte State.reset.mem b = 0)

/-! ### The whole machine -/

/-- The state after reset meets the invariant. -/
def Obligations.ResetMeetsInvariant : Prop := Inv State.reset

/-- Every step, whatever its event, keeps the invariant: an admissible platform, a consistent STATUS, zero results
until a command has run, and a memory in its canonical form that lists no byte outside the window. -/
def Obligations.StepKeepsInvariant : Prop := ∀ s t : State, Inv s → step s = .next t → Inv t

/-- The platform's parameters and the constants never change (R8, R17, R33, R117). -/
def Obligations.ParametersAndConstantsNeverChange : Prop :=
  ∀ s t : State, step s = .next t →
    t.platform = s.platform ∧ ∀ off, 0x40 ≤ off → readOffset t off = readOffset s off

/-- The engine reads the latched record, not the live registers: a host write of SRC, DST, LEN, OPA or OPB just
before the engine's turn and just after it lead to the same state (R35, R118 item 2). -/
def Obligations.OperandWriteWhileBusyCommutes : Prop :=
  ∀ (s : State) (r : Reg) (v : Word) (es : List Event), s.platform.Admissible → s.status.busy = true →
    r ∈ [Reg.src, .dst, .len, .opa, .opb] →
    ∃ t : State,
      run 2 { s with inputs := scriptWr s.platform r v :: .engine :: es } = .next t ∧
        run 2 { s with inputs := .engine :: scriptWr s.platform r v :: es } = .next t

/-- Progress (R121): a started command completes, unless a reset intervenes, once the finitely many scheduled events
have happened at the latest. The finite schedule, and that the engine moves when it is empty, are the model's choices
(DESIGN CHOICE, log 2, log 17). -/
def Obligations.StartedCommandCompletes : Prop :=
  ∀ s : State, s.status.busy = true →
    (∀ e ∈ s.inputs, e ≠ .reset ∧ LawfulEvent s.platform e) →
    ∃ (k : Nat) (t : State), k ≤ s.inputs.length + 1 ∧ run k s = .next t ∧ t.status.busy = false ∧
      t.status.done = true

/-- Polling (R118 item 5): a STATUS read that follows the start in the host's order never shows the previous
completion. Whatever lawful events come between the two, but a reset and another CMD write, it shows BUSY where the
engine has had no turn yet, and else DONE of the command just started. -/
def Obligations.PollAfterStartNeverStale : Prop :=
  ∀ (s : State) (v : Word) (between es : List Event), s.platform.Admissible → s.status.busy = false →
    (∀ e ∈ between, LawfulEvent s.platform e ∧ e ≠ .reset ∧ ¬ WritesCmd s.platform e) →
    ∃ (t : State) (w : Word) (earlier : List Reply),
      run (between.length + 2)
        { s with inputs := scriptWr s.platform .cmd v :: (between ++ scriptRd s.platform .status :: es) } = .next t ∧
        t.inputs = es ∧ t.replies = .reg w :: earlier ∧ t.cmd = v ∧ t.latched.cmd = v ∧
        (Event.engine ∉ between → w.getLsbD 0 = true ∧ w.getLsbD 1 = false) ∧
        (Event.engine ∈ between → w.getLsbD 0 = false ∧ w.getLsbD 1 = true)
end

