-- ==== Sys2Proof/Laws/Arith.lean ====
section
/-! SUPPORT. Saturation, shifts and the 32-bit readings, as linear facts over the integers: each says once what its
function can answer (00_scope.md R9, R12, R13; 40_qformat.md R63 to R66). -/

namespace Sys2Proof.Machine

/-- The 32-bit clamp with its bounds written out. -/
theorem sat32_eq (v : Int) :
    sat 32 v = if v < -2147483648 then -2147483648 else if v > 2147483647 then 2147483647 else v := by
  simp [sat]

/-- A clamped value is in the signed 32-bit range. -/
theorem sat32_range (v : Int) : -2147483648 ≤ sat 32 v ∧ sat 32 v ≤ 2147483647 := by
  rw [sat32_eq]; split <;> (try split) <;> omega

/-- A value already in range is not changed. -/
theorem sat32_id {v : Int} (lo : -2147483648 ≤ v) (hi : v ≤ 2147483647) : sat 32 v = v := by
  rw [sat32_eq, if_neg (by omega), if_neg (by omega)]

/-- Clamping twice is clamping once. -/
@[simp] theorem sat32_idem (v : Int) : sat 32 (sat 32 v) = sat 32 v :=
  sat32_id (sat32_range v).1 (sat32_range v).2

/-- Clamping keeps order. -/
theorem sat32_mono {u v : Int} (h : u ≤ v) : sat 32 u ≤ sat 32 v := by
  simp only [sat32_eq]; repeat' split
  all_goals omega

/-- A clamped value of an output width fits that width. -/
theorem sat_range (n : Nat) (v : Int) : -2 ^ (n - 1) ≤ sat n v ∧ sat n v ≤ 2 ^ (n - 1) - 1 := by
  have hp : (0 : Int) < 2 ^ (n - 1) := by positivity
  unfold sat; repeat' split
  all_goals omega

/-- The signed reading is in range. -/
theorem s32_range (v : Word) : -2147483648 ≤ s32 v ∧ s32 v ≤ 2147483647 := by
  have h1 := BitVec.le_toInt v; have h2 := BitVec.toInt_lt (x := v)
  unfold s32; norm_num at h1 h2; omega

/-- Reading back a written in-range integer gives it. -/
theorem s32_bits32 {i : Int} (lo : -2147483648 ≤ i) (hi : i ≤ 2147483647) : s32 (bits32 i) = i := by
  unfold s32 bits32
  rw [BitVec.toInt_ofInt, Int.bmod_eq_of_le] <;> norm_num <;> omega

/-- Writing a read word gives the word. -/
@[simp] theorem bits32_s32 (v : Word) : bits32 (s32 v) = v := by
  unfold s32 bits32; exact BitVec.ofInt_toInt

/-- Writing a clamped value loses nothing. -/
@[simp] theorem s32_bits32_sat (v : Int) : s32 (bits32 (sat 32 v)) = sat 32 v :=
  s32_bits32 (sat32_range v).1 (sat32_range v).2

/-- The shift right by 31 as a division by its literal. -/
theorem asr31_eq (a : Int) : asr a 31 = a / 2147483648 := by unfold asr; norm_num

/-- The shift right of 23 bits as a division by its literal. -/
theorem asr23_eq (a : Int) : asr a 23 = a / 8388608 := by unfold asr; norm_num

/-- A shift of a value that is not negative is not negative, and not larger. -/
theorem asr_nonneg {a : Int} (h : 0 ≤ a) (k : Nat) : 0 ≤ asr a k ∧ asr a k ≤ a := by
  unfold asr
  exact ⟨Int.ediv_nonneg h (by positivity), Int.ediv_le_self _ h⟩

/-- MulQ31 as one division and one clamp. -/
theorem mulQ31_eq (a b : Int) : mulQ31 a b = sat 32 ((a * b + 1073741824) / 2147483648) := by
  unfold mulQ31; rw [asr31_eq]; norm_num

/-- The product of two Q31 values that are not negative stays below either of them, up to rounding. -/
theorem mulQ31_range {a b : Int} (ha : 0 ≤ a) (ha' : a ≤ 2147483647) (hb : 0 ≤ b) (hb' : b ≤ 2147483647) :
    0 ≤ mulQ31 a b ∧ mulQ31 a b ≤ a := by
  have h0 : 0 ≤ a * b := Int.mul_nonneg ha hb
  have h1 : a * b ≤ a * 2147483647 := Int.mul_le_mul_of_nonneg_left hb' ha
  rw [mulQ31_eq, sat32_id] <;> omega

/-- The product of two Q31 values that are not negative is only rounded (R64). -/
theorem mulQ31_exact {a b : Int} (ha : 0 ≤ a) (ha' : a ≤ 2147483647) (hb : 0 ≤ b) (hb' : b ≤ 2147483647) :
    mulQ31 a b = (a * b + 1073741824) / 2147483648 := by
  have h0 : 0 ≤ a * b := Int.mul_nonneg ha hb
  have h1 : a * b ≤ a * 2147483647 := Int.mul_le_mul_of_nonneg_left hb' ha
  rw [mulQ31_eq, sat32_id] <;> omega

/-- A Newton-Raphson step keeps an estimate in [0, 2^31): the correction never takes off more than y. -/
theorem nrStep_range {y : Int} (hy : 0 ≤ y) (hy' : y ≤ 2147483647) (x : Int) :
    0 ≤ nrStep y x ∧ nrStep y x ≤ 2147483647 := by
  refine ⟨?_, (sat32_range _).2⟩
  have he := (sat32_range (one - y - mulQ31 y x)).1
  have hm : -y ≤ mulQ31 y (nrError y x) := by
    have h1 : y * -2147483648 ≤ y * nrError y x := Int.mul_le_mul_of_nonneg_left he hy
    rw [mulQ31_eq]
    have h2 : -y ≤ (y * nrError y x + 1073741824) / 2147483648 := by omega
    have h3 := sat32_mono h2
    rwa [sat32_id (by omega) (by omega)] at h3
  have h4 := sat32_mono (show 0 ≤ y + mulQ31 y (nrError y x) by omega)
  rwa [sat32_id (by omega) (by omega)] at h4

/-- The seed of any argument in the working domain (R84). -/
theorem seed_range {x : Int} (hx : 0 ≤ x) (hx' : x ≤ 2147483647) : 987842479 ≤ seed x ∧ seed x ≤ 2061584302 := by
  have h : asr x 1 = x / 2 := by unfold asr; norm_num
  unfold seed seedConst
  rw [h, sat32_id] <;> omega

/-- The refiner's estimates on the working domain are Q31 values that are not negative (R86). -/
theorem recip_range {x : Int} (hx : 0 ≤ x) (hx' : x ≤ 2147483647) :
    (0 ≤ (recip x).y1 ∧ (recip x).y1 ≤ 2147483647) ∧ (0 ≤ (recip x).y2 ∧ (recip x).y2 ≤ 2147483647) := by
  have h0 := seed_range hx hx'
  have h1 := nrStep_range (y := seed x) (by omega) (by omega) x
  exact ⟨h1, nrStep_range h1.1 h1.2 x⟩

/-- The scaled magnitude of a 32-bit input: t is not negative and does not pass the scale constant (R72). -/
theorem scaled_range (x : Int) {k : Int} (hk : 0 ≤ k) (hk' : k ≤ 2147483647) :
    0 ≤ scaled x k ∧ scaled x k ≤ k := by
  have hs : 0 ≤ satAbs x ∧ satAbs x ≤ 2147483647 := by
    unfold satAbs; rw [sat32_eq]; repeat' split
    all_goals omega
  have h0 : 0 ≤ satAbs x * k := Int.mul_nonneg hs.1 hk
  have h1 : satAbs x * k ≤ 2147483647 * k := Int.mul_le_mul_of_nonneg_right hs.2 hk
  unfold scaled
  rw [mulQ31_eq, sat32_id] <;> omega

/-- The mask of R70: for t not negative the remainder by 2^23 is t & 0x7FFFFF. -/
theorem mask_eq_mod (t : Nat) : t &&& 0x7FFFFF = t % 2 ^ 23 := Nat.and_two_pow_sub_one_eq_mod t 23

/-- The reduced pair: sign is a bit, n is not negative, d is a Q31 fraction (R72). -/
theorem reduce_range (x : Int) {k : Int} (hk : 0 ≤ k) (hk' : k ≤ 2147483647) :
    ((reduce x k).sign = 0 ∨ (reduce x k).sign = 1) ∧ (0 ≤ (reduce x k).n ∧ (reduce x k).n ≤ k / 8388608) ∧
      (0 ≤ (reduce x k).d ∧ (reduce x k).d ≤ 2147483392) := by
  have h := scaled_range x hk hk'
  refine ⟨?_, ?_, ?_⟩
  · unfold reduce; dsimp only; split <;> simp
  · unfold reduce; dsimp only; rw [asr23_eq]; omega
  · unfold reduce; dsimp only; norm_num; omega

/-- A multiply-accumulate step that does not saturate. -/
theorem hornerStep_eq {d y c : Int} (lo : -2147483648 ≤ c + (y * d + 1073741824) / 2147483648)
    (hi : c + (y * d + 1073741824) / 2147483648 ≤ 2147483647) :
    hornerStep d y c = c + (y * d + 1073741824) / 2147483648 := by
  unfold hornerStep
  rw [asr31_eq]; norm_num
  exact sat32_id lo hi

/-- The chain with its coefficients written out (R79). -/
theorem horner_eq (d : Int) : horner d =
    hornerStep d (hornerStep d (hornerStep d (hornerStep d 14685184 (-114217216)) 514075392) (-1488269056))
      2147483647 := by rfl

/-- Horner on [0, 1): no step saturates, and the value is a Q31 value that is not negative (R78). -/
theorem horner_range {d : Int} (hd : 0 ≤ d) (hd' : d ≤ 2147483647) : 0 ≤ horner d ∧ horner d ≤ 2147483647 := by
  have a1 : 0 ≤ 14685184 * d := by omega
  have h1 : hornerStep d 14685184 (-114217216) = -114217216 + (14685184 * d + 1073741824) / 2147483648 :=
    hornerStep_eq (by omega) (by omega)
  have b1 : -114217216 ≤ hornerStep d 14685184 (-114217216) ∧ hornerStep d 14685184 (-114217216) ≤ 0 := by omega
  rw [horner_eq]
  generalize hornerStep d 14685184 (-114217216) = y1 at b1 ⊢
  have a2 : -114217216 * d ≤ y1 * d := Int.mul_le_mul_of_nonneg_right b1.1 hd
  have a2' : y1 * d ≤ 0 * d := Int.mul_le_mul_of_nonneg_right b1.2 hd
  have h2 : hornerStep d y1 514075392 = 514075392 + (y1 * d + 1073741824) / 2147483648 :=
    hornerStep_eq (by omega) (by omega)
  have b2 : 0 ≤ hornerStep d y1 514075392 ∧ hornerStep d y1 514075392 ≤ 514075392 := by omega
  generalize hornerStep d y1 514075392 = y2 at b2 ⊢
  have a3 : 0 * d ≤ y2 * d := Int.mul_le_mul_of_nonneg_right b2.1 hd
  have a3' : y2 * d ≤ 514075392 * d := Int.mul_le_mul_of_nonneg_right b2.2 hd
  have h3 : hornerStep d y2 (-1488269056) = -1488269056 + (y2 * d + 1073741824) / 2147483648 :=
    hornerStep_eq (by omega) (by omega)
  have b3 : -1488269056 ≤ hornerStep d y2 (-1488269056) ∧ hornerStep d y2 (-1488269056) ≤ 0 := by omega
  generalize hornerStep d y2 (-1488269056) = y3 at b3 ⊢
  have a4 : -1488269056 * d ≤ y3 * d := Int.mul_le_mul_of_nonneg_right b3.1 hd
  have a4' : y3 * d ≤ 0 * d := Int.mul_le_mul_of_nonneg_right b3.2 hd
  have h4 : hornerStep d y3 2147483647 = 2147483647 + (y3 * d + 1073741824) / 2147483648 :=
    hornerStep_eq (by omega) (by omega)
  omega

/-- Antilog answers a Q31 value that is not negative (R81). -/
theorem antilog_range (x : Int) : 0 ≤ antilog x ∧ antilog x ≤ 2147483647 := by
  have hr := reduce_range x (k := kSig) (by decide) (by decide)
  have hh := horner_range (d := (reduce x kSig).d) hr.2.2.1 (by omega)
  have ha := asr_nonneg hh.1 (reduce x kSig).n.toNat
  unfold antilog applyExp
  omega

/-- What a format's layout can be (R43). -/
theorem layoutOf_cases {f : OutFmt} {l : Layout} (h : layoutOf f = some l) :
    (f = .q7 ∧ l = ⟨1, 24⟩) ∨ (f = .q15 ∧ l = ⟨2, 16⟩) ∨ (f = .q16_15 ∧ l = ⟨4, 16⟩) := by
  cases f <;> simp_all [layoutOf]

/-- A converted value fits its output format (R65). -/
theorem cvt_range (y : Int) (l : Layout) :
    -2 ^ (8 * l.width - 1) ≤ cvt y l ∧ cvt y l ≤ 2 ^ (8 * l.width - 1) - 1 := sat_range _ _

end Sys2Proof.Machine
end

