-- ==== Sys2Proof/Laws/Decode.lean ====
section
/-! SUPPORT. The fields of a command word and the decoder by cases on them (30_encoding.md R55, R58). -/

namespace Sys2Proof

/-- OP has six bits (R55). -/
theorem opField_lt (c : Word) : opField c < 64 := by unfold opField; omega

/-- OFMT has two bits (R55). -/
theorem ofmtField_lt (c : Word) : ofmtField c < 4 := by unfold ofmtField; omega

/-- A word is its four fields (R55). -/
theorem toNat_eq_fields (c : Word) :
    c.toNat = rsvHiField c * 1024 + ofmtField c * 256 + rsvLoField c * 64 + opField c := by
  unfold rsvHiField ofmtField rsvLoField opField; omega

/-- OP as bits 5 to 0. -/
theorem extract_op (c : Word) : (c.extractLsb' 0 6).toNat = opField c := by
  simp [opField, BitVec.extractLsb'_toNat]

/-- RSV_LO as bits 7 to 6. -/
theorem extract_rsvLo (c : Word) : (c.extractLsb' 6 2).toNat = rsvLoField c := by
  simp [rsvLoField, BitVec.extractLsb'_toNat, Nat.shiftRight_eq_div_pow]

/-- OFMT as bits 9 to 8. -/
theorem extract_ofmt (c : Word) : (c.extractLsb' 8 2).toNat = ofmtField c := by
  simp [ofmtField, BitVec.extractLsb'_toNat, Nat.shiftRight_eq_div_pow]

/-- RSV_HI as bits 31 to 10. -/
theorem extract_rsvHi (c : Word) : (c.extractLsb' 10 22).toNat = rsvHiField c := by
  have := c.isLt
  simp [rsvHiField, BitVec.extractLsb'_toNat, Nat.shiftRight_eq_div_pow]; omega

/-- Decode with the operations as the two sets of R58: those with an output format, and those without. -/
theorem decode_eq (c : Word) : decode c =
    if rsvHiField c ≠ 0 ∨ rsvLoField c ≠ 0 then .illegal
    else if opField c ∈ [2, 9, 10, 16, 17, 18] then
      (if ofmtField c = 3 then .fmt
        else match formattedOp (opField c) (ofmtOfCode (ofmtField c)) with
          | some i => .ok i
          | none => .illegal)
    else if opField c ∈ [1, 3, 4, 5, 6, 7, 8] then
      (if ofmtField c = 0 then
        match plainOp (opField c) with
        | some i => .ok i
        | none => .illegal
        else .illegal)
    else .illegal := by
  unfold decode
  have h := opField_lt c
  generalize opField c = p at *
  split
  · rfl
  · generalize ofmtOfCode (ofmtField c) = f
    interval_cases p <;> simp [formattedOp, plainOp]

end Sys2Proof
end

