-- ==== Sys2Proof/Laws/Memory.lean ====
section
/-! SUPPORT. The bytes of the data window: reading after writing, and the canonical form every operation keeps
(20_memory.md R41, R44). -/

namespace Sys2Proof.Machine

/-- The canonical form of a list with a first entry. -/
theorem memWf_cons {c : Host.Cell} {m : Memory} :
    memWf (c :: m) = true ↔ c.2 ≠ unlisted ∧ (∀ d ∈ m, c.1 < d.1) ∧ memWf m = true := by
  obtain ⟨a, v⟩ := c
  simp [memWf, and_assoc]

/-- An address below every listed one reads as an unlisted byte. -/
theorem readByte_below {m : Memory} {a : Nat} (h : ∀ c ∈ m, a < c.1) : readByte m a = unlisted := by
  induction m with
  | nil => rfl
  | cons c m ih =>
    obtain ⟨b, u⟩ := c
    have hb : a < b := h (b, u) (by simp)
    rw [readByte, if_neg (by omega), ih fun c hc => h c (by simp [hc])]

/-- Which entries a write can leave: the one written, and those that were there. -/
theorem mem_writeByte {a : Nat} {v : Byte} {m : Memory} {c : Host.Cell} (h : c ∈ writeByte a v m) :
    c.1 = a ∨ c ∈ m := by
  induction m with
  | nil => unfold writeByte at h; split at h <;> simp_all
  | cons d m ih =>
    obtain ⟨b, u⟩ := d
    unfold writeByte at h
    split at h
    · split at h
      · exact .inr h
      · rcases List.mem_cons.mp h with rfl | h
        · exact .inl rfl
        · exact .inr h
    · split at h
      · split at h
        · exact .inr (List.mem_cons_of_mem _ h)
        · rcases List.mem_cons.mp h with rfl | h
          · exact .inl rfl
          · exact .inr (List.mem_cons_of_mem _ h)
      · rcases List.mem_cons.mp h with rfl | h
        · exact .inr (by simp)
        · exact (ih h).imp id (List.mem_cons_of_mem _)

/-- A byte write keeps the canonical form. -/
theorem writeByte_wf {a : Nat} {v : Byte} {m : Memory} (h : memWf m = true) : memWf (writeByte a v m) = true := by
  induction m with
  | nil => unfold writeByte; split <;> simp_all [memWf]
  | cons d m ih =>
    obtain ⟨b, u⟩ := d
    obtain ⟨hu, hb, hm⟩ := memWf_cons.mp h
    unfold writeByte
    split
    · rename_i hlt
      split
      · exact h
      · refine memWf_cons.mpr ⟨by assumption, fun d hd => ?_, h⟩
        rcases List.mem_cons.mp hd with rfl | hd
        · exact hlt
        · exact Nat.lt_trans hlt (hb d hd)
    · split
      · subst_vars
        split
        · exact hm
        · exact memWf_cons.mpr ⟨by assumption, hb, hm⟩
      · refine memWf_cons.mpr ⟨hu, fun d hd => ?_, ih hm⟩
        rcases mem_writeByte hd with hd | hd
        · dsimp only; omega
        · exact hb d hd

/-- Reading after a byte write: the byte written, and every other byte as before. -/
theorem readByte_writeByte {a b : Nat} {v : Byte} {m : Memory} (h : memWf m = true) :
    readByte (writeByte a v m) b = if b = a then v else readByte m b := by
  induction m with
  | nil =>
    unfold writeByte
    split
    · subst_vars; simp [readByte]
    · simp [readByte]
  | cons d m ih =>
    obtain ⟨c, u⟩ := d
    obtain ⟨-, hc, hm⟩ := memWf_cons.mp h
    unfold writeByte
    split
    · rename_i hlt
      split
      · split
        · subst_vars
          refine readByte_below fun d hd => ?_
          rcases List.mem_cons.mp hd with rfl | hd
          · exact hlt
          · exact Nat.lt_trans hlt (hc d hd)
        · rfl
      · rfl
    · split
      · subst_vars
        split
        · subst_vars
          split
          · subst_vars; exact readByte_below hc
          · rename_i hne; rw [readByte, if_neg hne]
        · unfold readByte; split <;> rfl
      · rename_i hne
        rw [readByte, ih hm, readByte]
        split
        · subst_vars; rw [if_neg (Ne.symm hne)]
        · rfl

/-- A write of n bytes keeps the canonical form. -/
theorem memWrite_wf {m : Memory} (h : memWf m = true) (a n v : Nat) : memWf (memWrite m a n v) = true := by
  induction n generalizing m a v with
  | zero => exact h
  | succ n ih => exact ih (writeByte_wf h) _ _

/-- Which entries a write of n bytes can leave. -/
theorem mem_memWrite {m : Memory} {a n v : Nat} {c : Host.Cell} (h : c ∈ memWrite m a n v) :
    (a ≤ c.1 ∧ c.1 < a + n) ∨ c ∈ m := by
  induction n generalizing m a v with
  | zero => exact .inr h
  | succ n ih =>
    rcases ih h with h | h
    · exact .inl (by omega)
    · exact (mem_writeByte h).imp (by omega) id

/-- A write of n bytes leaves every byte outside them. -/
theorem readByte_memWrite_outside {m : Memory} (h : memWf m = true) {a n v b : Nat} (hb : b < a ∨ a + n ≤ b) :
    readByte (memWrite m a n v) b = readByte m b := by
  induction n generalizing m a v with
  | zero => rfl
  | succ n ih =>
    rw [memWrite, ih (writeByte_wf h) (by omega), readByte_writeByte h, if_neg (by omega)]

/-- Byte j of a write of n bytes holds bits 8j+7 to 8j of the value (R41). -/
theorem readByte_memWrite_inside {m : Memory} (h : memWf m = true) {a n v j : Nat} (hj : j < n) :
    readByte (memWrite m a n v) (a + j) = BitVec.ofNat 8 (v / 256 ^ j) := by
  induction n generalizing m a v j with
  | zero => omega
  | succ n ih =>
    cases j with
    | zero =>
      rw [memWrite, readByte_memWrite_outside (writeByte_wf h) (by omega), readByte_writeByte h]
      simp
    | succ j =>
      have e : a + (j + 1) = a + 1 + j := by omega
      rw [memWrite, e, ih (writeByte_wf h) (by omega), Nat.div_div_eq_div_mul, ← Nat.pow_succ']

/-- n bytes read are below 256^n. -/
theorem memRead_lt (m : Memory) (a n : Nat) : memRead m a n < 256 ^ n := by
  induction n generalizing a with
  | zero => simp [memRead]
  | succ n ih =>
    have h := ih (a + 1)
    have hb := (readByte m a).isLt
    rw [memRead, Nat.pow_succ]
    omega

/-- Two memories that agree on n bytes read the same number there. -/
theorem memRead_congr {m m' : Memory} {a n : Nat} (h : ∀ b, a ≤ b → b < a + n → readByte m b = readByte m' b) :
    memRead m a n = memRead m' a n := by
  induction n generalizing a with
  | zero => rfl
  | succ n ih =>
    rw [memRead, memRead, h a (by omega) (by omega), ih fun b h1 h2 => h b (by omega) (by omega)]

/-- Reading back the n bytes just written gives the low 8n bits of the value (R10). -/
theorem memRead_memWrite {m : Memory} (h : memWf m = true) (a n v : Nat) :
    memRead (memWrite m a n v) a n = v % 256 ^ n := by
  induction n generalizing m a v with
  | zero => simp [memRead, Nat.mod_one]
  | succ n ih =>
    have h0 := readByte_memWrite_inside h (a := a) (n := n + 1) (v := v) (j := 0) (by omega)
    replace h0 : readByte (memWrite m a (n + 1) v) a = BitVec.ofNat 8 v := by simpa using h0
    have e : v % 256 ^ (n + 1) = v % 256 + 256 * (v / 256 % 256 ^ n) := by
      rw [show 256 ^ (n + 1) = 256 * 256 ^ n from Nat.pow_succ']; exact Nat.mod_mul
    rw [memRead, memWrite, ih (writeByte_wf h), ← memWrite, h0, BitVec.toNat_ofNat, e]

/-- Drawing n bytes keeps the canonical form. -/
theorem memDraw_wf {m : Memory} (h : memWf m = true) (a n k : Nat) : memWf (memDraw m a n k) = true := by
  induction n generalizing m a k with
  | zero => exact h
  | succ n ih => exact ih (writeByte_wf h) _ _

/-- Which entries drawing n bytes can leave. -/
theorem mem_memDraw {m : Memory} {a n k : Nat} {c : Host.Cell} (h : c ∈ memDraw m a n k) :
    (a ≤ c.1 ∧ c.1 < a + n) ∨ c ∈ m := by
  induction n generalizing m a k with
  | zero => exact .inr h
  | succ n ih =>
    rcases ih h with h | h
    · exact .inl (by omega)
    · exact (mem_writeByte h).imp (by omega) id

/-- Drawing n bytes leaves every byte outside them. -/
theorem readByte_memDraw_outside {m : Memory} (h : memWf m = true) {a n k b : Nat} (hb : b < a ∨ a + n ≤ b) :
    readByte (memDraw m a n k) b = readByte m b := by
  induction n generalizing m a k with
  | zero => rfl
  | succ n ih =>
    rw [memDraw, ih (writeByte_wf h) (by omega), readByte_writeByte h, if_neg (by omega)]

/-- Byte j of n drawn bytes is the free byte of draw k + j. -/
theorem readByte_memDraw_inside {m : Memory} (h : memWf m = true) {a n k j : Nat} (hj : j < n) :
    readByte (memDraw m a n k) (a + j) = Config.freeByte (k + j) := by
  induction n generalizing m a k j with
  | zero => omega
  | succ n ih =>
    cases j with
    | zero =>
      rw [memDraw, readByte_memDraw_outside (writeByte_wf h) (by omega), readByte_writeByte h]
      simp
    | succ j =>
      have e : a + (j + 1) = a + 1 + j := by omega
      have e' : k + (j + 1) = k + 1 + j := by omega
      rw [memDraw, e, e', ih (writeByte_wf h) (by omega)]

/-- Storing outputs keeps the canonical form. -/
theorem storeElems_wf {w : Nat} {m : Memory} (h : memWf m = true) (a : Nat) (os : List Int) :
    memWf (storeElems w m a os) = true := by
  induction os generalizing m a with
  | nil => exact h
  | cons o os ih => exact ih (memWrite_wf h _ _ _) _

/-- Which entries storing outputs can leave. -/
theorem mem_storeElems {w : Nat} {m : Memory} {a : Nat} {os : List Int} {c : Host.Cell}
    (h : c ∈ storeElems w m a os) : (a ≤ c.1 ∧ c.1 < a + w * os.length) ∨ c ∈ m := by
  induction os generalizing m a with
  | nil => exact .inr h
  | cons o os ih =>
    rw [List.length_cons, Nat.mul_succ]
    rcases ih h with h | h
    · exact .inl (by omega)
    · exact (mem_memWrite h).imp (by omega) id

/-- Storing outputs leaves every byte outside OUT (R45). -/
theorem readByte_storeElems_outside {w : Nat} {m : Memory} (h : memWf m = true) {a b : Nat} {os : List Int}
    (hb : b < a ∨ a + w * os.length ≤ b) : readByte (storeElems w m a os) b = readByte m b := by
  induction os generalizing m a with
  | nil => rfl
  | cons o os ih =>
    rw [List.length_cons, Nat.mul_succ] at hb
    rw [storeElems, ih (memWrite_wf h _ _ _) (by omega), readByte_memWrite_outside h (by omega)]

/-- The bytes a write stores do not depend on what was there. -/
theorem readByte_memWrite_same {m m' : Memory} (h : memWf m = true) (h' : memWf m' = true) {a n v b : Nat}
    (hb : a ≤ b ∧ b < a + n) : readByte (memWrite m a n v) b = readByte (memWrite m' a n v) b := by
  obtain ⟨j, rfl⟩ : ∃ j, b = a + j := ⟨b - a, by omega⟩
  rw [readByte_memWrite_inside h (by omega), readByte_memWrite_inside h' (by omega)]

/-- The bytes of OUT do not depend on what was there (R45). -/
theorem readByte_storeElems_same {w : Nat} {m m' : Memory} (h : memWf m = true) (h' : memWf m' = true) {a b : Nat}
    {os : List Int} (hb : a ≤ b ∧ b < a + w * os.length) :
    readByte (storeElems w m a os) b = readByte (storeElems w m' a os) b := by
  induction os generalizing m m' a with
  | nil => simp at hb; omega
  | cons o os ih =>
    rw [List.length_cons, Nat.mul_succ] at hb
    rw [storeElems, storeElems]
    by_cases hb' : b < a + w
    · rw [readByte_storeElems_outside (memWrite_wf h _ _ _) (by omega),
        readByte_storeElems_outside (memWrite_wf h' _ _ _) (by omega), readByte_memWrite_same h h' (by omega)]
    · exact ih (memWrite_wf h _ _ _) (memWrite_wf h' _ _ _) (by omega)

/-- Element i of the stored outputs holds the low 8w bits of out[i] (R44). -/
theorem memRead_storeElems {w : Nat} {m : Memory} (h : memWf m = true) {a i : Nat} {os : List Int} {o : Int}
    (hi : os[i]? = some o) : memRead (storeElems w m a os) (a + w * i) w = u32 (bits32 o) % 256 ^ w := by
  induction os generalizing m a i with
  | nil => simp at hi
  | cons x os ih =>
    cases i with
    | zero =>
      obtain rfl : x = o := by simpa using hi
      rw [storeElems, Nat.mul_zero, Nat.add_zero, ← memRead_memWrite h a w]
      exact memRead_congr fun b h1 h2 => readByte_storeElems_outside (memWrite_wf h _ _ _) (by omega)
    | succ i =>
      have e : a + w * (i + 1) = a + w + w * i := by rw [Nat.mul_succ]; omega
      rw [storeElems, e, ih (memWrite_wf h _ _ _) (by simpa using hi)]

end Sys2Proof.Machine
end

