-- ==== Sys2Proof/Laws/State.lean ====
section
/-! SUPPORT. One lemma per field per update of State, each true by rfl, so that no proof unfolds a record update. -/

namespace Sys2Proof.Machine

/-! ### setCmd -/

section setCmd

variable (s : State) (v : Word)

@[simp] theorem State.setCmd_platform : (s.setCmd v).platform = s.platform := rfl
@[simp] theorem State.setCmd_cmd : (s.setCmd v).cmd = v := rfl
@[simp] theorem State.setCmd_status : (s.setCmd v).status = s.status := rfl
@[simp] theorem State.setCmd_src : (s.setCmd v).src = s.src := rfl
@[simp] theorem State.setCmd_dst : (s.setCmd v).dst = s.dst := rfl
@[simp] theorem State.setCmd_len : (s.setCmd v).len = s.len := rfl
@[simp] theorem State.setCmd_opa : (s.setCmd v).opa = s.opa := rfl
@[simp] theorem State.setCmd_opb : (s.setCmd v).opb = s.opb := rfl
@[simp] theorem State.setCmd_res0 : (s.setCmd v).res0 = s.res0 := rfl
@[simp] theorem State.setCmd_res1 : (s.setCmd v).res1 = s.res1 := rfl
@[simp] theorem State.setCmd_res2 : (s.setCmd v).res2 = s.res2 := rfl
@[simp] theorem State.setCmd_latched : (s.setCmd v).latched = s.latched := rfl
@[simp] theorem State.setCmd_mem : (s.setCmd v).mem = s.mem := rfl
@[simp] theorem State.setCmd_inputs : (s.setCmd v).inputs = s.inputs := rfl
@[simp] theorem State.setCmd_replies : (s.setCmd v).replies = s.replies := rfl
@[simp] theorem State.setCmd_draws : (s.setCmd v).draws = s.draws := rfl
@[simp] theorem State.setCmd_disturbed : (s.setCmd v).disturbed = s.disturbed := rfl

end setCmd

/-! ### setStatus -/

section setStatus

variable (s : State) (v : Status)

@[simp] theorem State.setStatus_platform : (s.setStatus v).platform = s.platform := rfl
@[simp] theorem State.setStatus_cmd : (s.setStatus v).cmd = s.cmd := rfl
@[simp] theorem State.setStatus_status : (s.setStatus v).status = v := rfl
@[simp] theorem State.setStatus_src : (s.setStatus v).src = s.src := rfl
@[simp] theorem State.setStatus_dst : (s.setStatus v).dst = s.dst := rfl
@[simp] theorem State.setStatus_len : (s.setStatus v).len = s.len := rfl
@[simp] theorem State.setStatus_opa : (s.setStatus v).opa = s.opa := rfl
@[simp] theorem State.setStatus_opb : (s.setStatus v).opb = s.opb := rfl
@[simp] theorem State.setStatus_res0 : (s.setStatus v).res0 = s.res0 := rfl
@[simp] theorem State.setStatus_res1 : (s.setStatus v).res1 = s.res1 := rfl
@[simp] theorem State.setStatus_res2 : (s.setStatus v).res2 = s.res2 := rfl
@[simp] theorem State.setStatus_latched : (s.setStatus v).latched = s.latched := rfl
@[simp] theorem State.setStatus_mem : (s.setStatus v).mem = s.mem := rfl
@[simp] theorem State.setStatus_inputs : (s.setStatus v).inputs = s.inputs := rfl
@[simp] theorem State.setStatus_replies : (s.setStatus v).replies = s.replies := rfl
@[simp] theorem State.setStatus_draws : (s.setStatus v).draws = s.draws := rfl
@[simp] theorem State.setStatus_disturbed : (s.setStatus v).disturbed = s.disturbed := rfl

end setStatus

/-! ### setSrc -/

section setSrc

variable (s : State) (v : Word)

@[simp] theorem State.setSrc_platform : (s.setSrc v).platform = s.platform := rfl
@[simp] theorem State.setSrc_cmd : (s.setSrc v).cmd = s.cmd := rfl
@[simp] theorem State.setSrc_status : (s.setSrc v).status = s.status := rfl
@[simp] theorem State.setSrc_src : (s.setSrc v).src = v := rfl
@[simp] theorem State.setSrc_dst : (s.setSrc v).dst = s.dst := rfl
@[simp] theorem State.setSrc_len : (s.setSrc v).len = s.len := rfl
@[simp] theorem State.setSrc_opa : (s.setSrc v).opa = s.opa := rfl
@[simp] theorem State.setSrc_opb : (s.setSrc v).opb = s.opb := rfl
@[simp] theorem State.setSrc_res0 : (s.setSrc v).res0 = s.res0 := rfl
@[simp] theorem State.setSrc_res1 : (s.setSrc v).res1 = s.res1 := rfl
@[simp] theorem State.setSrc_res2 : (s.setSrc v).res2 = s.res2 := rfl
@[simp] theorem State.setSrc_latched : (s.setSrc v).latched = s.latched := rfl
@[simp] theorem State.setSrc_mem : (s.setSrc v).mem = s.mem := rfl
@[simp] theorem State.setSrc_inputs : (s.setSrc v).inputs = s.inputs := rfl
@[simp] theorem State.setSrc_replies : (s.setSrc v).replies = s.replies := rfl
@[simp] theorem State.setSrc_draws : (s.setSrc v).draws = s.draws := rfl
@[simp] theorem State.setSrc_disturbed : (s.setSrc v).disturbed = s.disturbed := rfl

end setSrc

/-! ### setDst -/

section setDst

variable (s : State) (v : Word)

@[simp] theorem State.setDst_platform : (s.setDst v).platform = s.platform := rfl
@[simp] theorem State.setDst_cmd : (s.setDst v).cmd = s.cmd := rfl
@[simp] theorem State.setDst_status : (s.setDst v).status = s.status := rfl
@[simp] theorem State.setDst_src : (s.setDst v).src = s.src := rfl
@[simp] theorem State.setDst_dst : (s.setDst v).dst = v := rfl
@[simp] theorem State.setDst_len : (s.setDst v).len = s.len := rfl
@[simp] theorem State.setDst_opa : (s.setDst v).opa = s.opa := rfl
@[simp] theorem State.setDst_opb : (s.setDst v).opb = s.opb := rfl
@[simp] theorem State.setDst_res0 : (s.setDst v).res0 = s.res0 := rfl
@[simp] theorem State.setDst_res1 : (s.setDst v).res1 = s.res1 := rfl
@[simp] theorem State.setDst_res2 : (s.setDst v).res2 = s.res2 := rfl
@[simp] theorem State.setDst_latched : (s.setDst v).latched = s.latched := rfl
@[simp] theorem State.setDst_mem : (s.setDst v).mem = s.mem := rfl
@[simp] theorem State.setDst_inputs : (s.setDst v).inputs = s.inputs := rfl
@[simp] theorem State.setDst_replies : (s.setDst v).replies = s.replies := rfl
@[simp] theorem State.setDst_draws : (s.setDst v).draws = s.draws := rfl
@[simp] theorem State.setDst_disturbed : (s.setDst v).disturbed = s.disturbed := rfl

end setDst

/-! ### setLen -/

section setLen

variable (s : State) (v : Word)

@[simp] theorem State.setLen_platform : (s.setLen v).platform = s.platform := rfl
@[simp] theorem State.setLen_cmd : (s.setLen v).cmd = s.cmd := rfl
@[simp] theorem State.setLen_status : (s.setLen v).status = s.status := rfl
@[simp] theorem State.setLen_src : (s.setLen v).src = s.src := rfl
@[simp] theorem State.setLen_dst : (s.setLen v).dst = s.dst := rfl
@[simp] theorem State.setLen_len : (s.setLen v).len = v := rfl
@[simp] theorem State.setLen_opa : (s.setLen v).opa = s.opa := rfl
@[simp] theorem State.setLen_opb : (s.setLen v).opb = s.opb := rfl
@[simp] theorem State.setLen_res0 : (s.setLen v).res0 = s.res0 := rfl
@[simp] theorem State.setLen_res1 : (s.setLen v).res1 = s.res1 := rfl
@[simp] theorem State.setLen_res2 : (s.setLen v).res2 = s.res2 := rfl
@[simp] theorem State.setLen_latched : (s.setLen v).latched = s.latched := rfl
@[simp] theorem State.setLen_mem : (s.setLen v).mem = s.mem := rfl
@[simp] theorem State.setLen_inputs : (s.setLen v).inputs = s.inputs := rfl
@[simp] theorem State.setLen_replies : (s.setLen v).replies = s.replies := rfl
@[simp] theorem State.setLen_draws : (s.setLen v).draws = s.draws := rfl
@[simp] theorem State.setLen_disturbed : (s.setLen v).disturbed = s.disturbed := rfl

end setLen

/-! ### setOpa -/

section setOpa

variable (s : State) (v : Word)

@[simp] theorem State.setOpa_platform : (s.setOpa v).platform = s.platform := rfl
@[simp] theorem State.setOpa_cmd : (s.setOpa v).cmd = s.cmd := rfl
@[simp] theorem State.setOpa_status : (s.setOpa v).status = s.status := rfl
@[simp] theorem State.setOpa_src : (s.setOpa v).src = s.src := rfl
@[simp] theorem State.setOpa_dst : (s.setOpa v).dst = s.dst := rfl
@[simp] theorem State.setOpa_len : (s.setOpa v).len = s.len := rfl
@[simp] theorem State.setOpa_opa : (s.setOpa v).opa = v := rfl
@[simp] theorem State.setOpa_opb : (s.setOpa v).opb = s.opb := rfl
@[simp] theorem State.setOpa_res0 : (s.setOpa v).res0 = s.res0 := rfl
@[simp] theorem State.setOpa_res1 : (s.setOpa v).res1 = s.res1 := rfl
@[simp] theorem State.setOpa_res2 : (s.setOpa v).res2 = s.res2 := rfl
@[simp] theorem State.setOpa_latched : (s.setOpa v).latched = s.latched := rfl
@[simp] theorem State.setOpa_mem : (s.setOpa v).mem = s.mem := rfl
@[simp] theorem State.setOpa_inputs : (s.setOpa v).inputs = s.inputs := rfl
@[simp] theorem State.setOpa_replies : (s.setOpa v).replies = s.replies := rfl
@[simp] theorem State.setOpa_draws : (s.setOpa v).draws = s.draws := rfl
@[simp] theorem State.setOpa_disturbed : (s.setOpa v).disturbed = s.disturbed := rfl

end setOpa

/-! ### setOpb -/

section setOpb

variable (s : State) (v : Word)

@[simp] theorem State.setOpb_platform : (s.setOpb v).platform = s.platform := rfl
@[simp] theorem State.setOpb_cmd : (s.setOpb v).cmd = s.cmd := rfl
@[simp] theorem State.setOpb_status : (s.setOpb v).status = s.status := rfl
@[simp] theorem State.setOpb_src : (s.setOpb v).src = s.src := rfl
@[simp] theorem State.setOpb_dst : (s.setOpb v).dst = s.dst := rfl
@[simp] theorem State.setOpb_len : (s.setOpb v).len = s.len := rfl
@[simp] theorem State.setOpb_opa : (s.setOpb v).opa = s.opa := rfl
@[simp] theorem State.setOpb_opb : (s.setOpb v).opb = v := rfl
@[simp] theorem State.setOpb_res0 : (s.setOpb v).res0 = s.res0 := rfl
@[simp] theorem State.setOpb_res1 : (s.setOpb v).res1 = s.res1 := rfl
@[simp] theorem State.setOpb_res2 : (s.setOpb v).res2 = s.res2 := rfl
@[simp] theorem State.setOpb_latched : (s.setOpb v).latched = s.latched := rfl
@[simp] theorem State.setOpb_mem : (s.setOpb v).mem = s.mem := rfl
@[simp] theorem State.setOpb_inputs : (s.setOpb v).inputs = s.inputs := rfl
@[simp] theorem State.setOpb_replies : (s.setOpb v).replies = s.replies := rfl
@[simp] theorem State.setOpb_draws : (s.setOpb v).draws = s.draws := rfl
@[simp] theorem State.setOpb_disturbed : (s.setOpb v).disturbed = s.disturbed := rfl

end setOpb

/-! ### setRes0 -/

section setRes0

variable (s : State) (v : Word)

@[simp] theorem State.setRes0_platform : (s.setRes0 v).platform = s.platform := rfl
@[simp] theorem State.setRes0_cmd : (s.setRes0 v).cmd = s.cmd := rfl
@[simp] theorem State.setRes0_status : (s.setRes0 v).status = s.status := rfl
@[simp] theorem State.setRes0_src : (s.setRes0 v).src = s.src := rfl
@[simp] theorem State.setRes0_dst : (s.setRes0 v).dst = s.dst := rfl
@[simp] theorem State.setRes0_len : (s.setRes0 v).len = s.len := rfl
@[simp] theorem State.setRes0_opa : (s.setRes0 v).opa = s.opa := rfl
@[simp] theorem State.setRes0_opb : (s.setRes0 v).opb = s.opb := rfl
@[simp] theorem State.setRes0_res0 : (s.setRes0 v).res0 = v := rfl
@[simp] theorem State.setRes0_res1 : (s.setRes0 v).res1 = s.res1 := rfl
@[simp] theorem State.setRes0_res2 : (s.setRes0 v).res2 = s.res2 := rfl
@[simp] theorem State.setRes0_latched : (s.setRes0 v).latched = s.latched := rfl
@[simp] theorem State.setRes0_mem : (s.setRes0 v).mem = s.mem := rfl
@[simp] theorem State.setRes0_inputs : (s.setRes0 v).inputs = s.inputs := rfl
@[simp] theorem State.setRes0_replies : (s.setRes0 v).replies = s.replies := rfl
@[simp] theorem State.setRes0_draws : (s.setRes0 v).draws = s.draws := rfl
@[simp] theorem State.setRes0_disturbed : (s.setRes0 v).disturbed = s.disturbed := rfl

end setRes0

/-! ### setRes1 -/

section setRes1

variable (s : State) (v : Word)

@[simp] theorem State.setRes1_platform : (s.setRes1 v).platform = s.platform := rfl
@[simp] theorem State.setRes1_cmd : (s.setRes1 v).cmd = s.cmd := rfl
@[simp] theorem State.setRes1_status : (s.setRes1 v).status = s.status := rfl
@[simp] theorem State.setRes1_src : (s.setRes1 v).src = s.src := rfl
@[simp] theorem State.setRes1_dst : (s.setRes1 v).dst = s.dst := rfl
@[simp] theorem State.setRes1_len : (s.setRes1 v).len = s.len := rfl
@[simp] theorem State.setRes1_opa : (s.setRes1 v).opa = s.opa := rfl
@[simp] theorem State.setRes1_opb : (s.setRes1 v).opb = s.opb := rfl
@[simp] theorem State.setRes1_res0 : (s.setRes1 v).res0 = s.res0 := rfl
@[simp] theorem State.setRes1_res1 : (s.setRes1 v).res1 = v := rfl
@[simp] theorem State.setRes1_res2 : (s.setRes1 v).res2 = s.res2 := rfl
@[simp] theorem State.setRes1_latched : (s.setRes1 v).latched = s.latched := rfl
@[simp] theorem State.setRes1_mem : (s.setRes1 v).mem = s.mem := rfl
@[simp] theorem State.setRes1_inputs : (s.setRes1 v).inputs = s.inputs := rfl
@[simp] theorem State.setRes1_replies : (s.setRes1 v).replies = s.replies := rfl
@[simp] theorem State.setRes1_draws : (s.setRes1 v).draws = s.draws := rfl
@[simp] theorem State.setRes1_disturbed : (s.setRes1 v).disturbed = s.disturbed := rfl

end setRes1

/-! ### setRes2 -/

section setRes2

variable (s : State) (v : Word)

@[simp] theorem State.setRes2_platform : (s.setRes2 v).platform = s.platform := rfl
@[simp] theorem State.setRes2_cmd : (s.setRes2 v).cmd = s.cmd := rfl
@[simp] theorem State.setRes2_status : (s.setRes2 v).status = s.status := rfl
@[simp] theorem State.setRes2_src : (s.setRes2 v).src = s.src := rfl
@[simp] theorem State.setRes2_dst : (s.setRes2 v).dst = s.dst := rfl
@[simp] theorem State.setRes2_len : (s.setRes2 v).len = s.len := rfl
@[simp] theorem State.setRes2_opa : (s.setRes2 v).opa = s.opa := rfl
@[simp] theorem State.setRes2_opb : (s.setRes2 v).opb = s.opb := rfl
@[simp] theorem State.setRes2_res0 : (s.setRes2 v).res0 = s.res0 := rfl
@[simp] theorem State.setRes2_res1 : (s.setRes2 v).res1 = s.res1 := rfl
@[simp] theorem State.setRes2_res2 : (s.setRes2 v).res2 = v := rfl
@[simp] theorem State.setRes2_latched : (s.setRes2 v).latched = s.latched := rfl
@[simp] theorem State.setRes2_mem : (s.setRes2 v).mem = s.mem := rfl
@[simp] theorem State.setRes2_inputs : (s.setRes2 v).inputs = s.inputs := rfl
@[simp] theorem State.setRes2_replies : (s.setRes2 v).replies = s.replies := rfl
@[simp] theorem State.setRes2_draws : (s.setRes2 v).draws = s.draws := rfl
@[simp] theorem State.setRes2_disturbed : (s.setRes2 v).disturbed = s.disturbed := rfl

end setRes2

/-! ### setLatched -/

section setLatched

variable (s : State) (v : Latched)

@[simp] theorem State.setLatched_platform : (s.setLatched v).platform = s.platform := rfl
@[simp] theorem State.setLatched_cmd : (s.setLatched v).cmd = s.cmd := rfl
@[simp] theorem State.setLatched_status : (s.setLatched v).status = s.status := rfl
@[simp] theorem State.setLatched_src : (s.setLatched v).src = s.src := rfl
@[simp] theorem State.setLatched_dst : (s.setLatched v).dst = s.dst := rfl
@[simp] theorem State.setLatched_len : (s.setLatched v).len = s.len := rfl
@[simp] theorem State.setLatched_opa : (s.setLatched v).opa = s.opa := rfl
@[simp] theorem State.setLatched_opb : (s.setLatched v).opb = s.opb := rfl
@[simp] theorem State.setLatched_res0 : (s.setLatched v).res0 = s.res0 := rfl
@[simp] theorem State.setLatched_res1 : (s.setLatched v).res1 = s.res1 := rfl
@[simp] theorem State.setLatched_res2 : (s.setLatched v).res2 = s.res2 := rfl
@[simp] theorem State.setLatched_latched : (s.setLatched v).latched = v := rfl
@[simp] theorem State.setLatched_mem : (s.setLatched v).mem = s.mem := rfl
@[simp] theorem State.setLatched_inputs : (s.setLatched v).inputs = s.inputs := rfl
@[simp] theorem State.setLatched_replies : (s.setLatched v).replies = s.replies := rfl
@[simp] theorem State.setLatched_draws : (s.setLatched v).draws = s.draws := rfl
@[simp] theorem State.setLatched_disturbed : (s.setLatched v).disturbed = s.disturbed := rfl

end setLatched

/-! ### setMem -/

section setMem

variable (s : State) (v : Memory)

@[simp] theorem State.setMem_platform : (s.setMem v).platform = s.platform := rfl
@[simp] theorem State.setMem_cmd : (s.setMem v).cmd = s.cmd := rfl
@[simp] theorem State.setMem_status : (s.setMem v).status = s.status := rfl
@[simp] theorem State.setMem_src : (s.setMem v).src = s.src := rfl
@[simp] theorem State.setMem_dst : (s.setMem v).dst = s.dst := rfl
@[simp] theorem State.setMem_len : (s.setMem v).len = s.len := rfl
@[simp] theorem State.setMem_opa : (s.setMem v).opa = s.opa := rfl
@[simp] theorem State.setMem_opb : (s.setMem v).opb = s.opb := rfl
@[simp] theorem State.setMem_res0 : (s.setMem v).res0 = s.res0 := rfl
@[simp] theorem State.setMem_res1 : (s.setMem v).res1 = s.res1 := rfl
@[simp] theorem State.setMem_res2 : (s.setMem v).res2 = s.res2 := rfl
@[simp] theorem State.setMem_latched : (s.setMem v).latched = s.latched := rfl
@[simp] theorem State.setMem_mem : (s.setMem v).mem = v := rfl
@[simp] theorem State.setMem_inputs : (s.setMem v).inputs = s.inputs := rfl
@[simp] theorem State.setMem_replies : (s.setMem v).replies = s.replies := rfl
@[simp] theorem State.setMem_draws : (s.setMem v).draws = s.draws := rfl
@[simp] theorem State.setMem_disturbed : (s.setMem v).disturbed = s.disturbed := rfl

end setMem

/-! ### setInputs -/

section setInputs

variable (s : State) (v : List Event)

@[simp] theorem State.setInputs_platform : (s.setInputs v).platform = s.platform := rfl
@[simp] theorem State.setInputs_cmd : (s.setInputs v).cmd = s.cmd := rfl
@[simp] theorem State.setInputs_status : (s.setInputs v).status = s.status := rfl
@[simp] theorem State.setInputs_src : (s.setInputs v).src = s.src := rfl
@[simp] theorem State.setInputs_dst : (s.setInputs v).dst = s.dst := rfl
@[simp] theorem State.setInputs_len : (s.setInputs v).len = s.len := rfl
@[simp] theorem State.setInputs_opa : (s.setInputs v).opa = s.opa := rfl
@[simp] theorem State.setInputs_opb : (s.setInputs v).opb = s.opb := rfl
@[simp] theorem State.setInputs_res0 : (s.setInputs v).res0 = s.res0 := rfl
@[simp] theorem State.setInputs_res1 : (s.setInputs v).res1 = s.res1 := rfl
@[simp] theorem State.setInputs_res2 : (s.setInputs v).res2 = s.res2 := rfl
@[simp] theorem State.setInputs_latched : (s.setInputs v).latched = s.latched := rfl
@[simp] theorem State.setInputs_mem : (s.setInputs v).mem = s.mem := rfl
@[simp] theorem State.setInputs_inputs : (s.setInputs v).inputs = v := rfl
@[simp] theorem State.setInputs_replies : (s.setInputs v).replies = s.replies := rfl
@[simp] theorem State.setInputs_draws : (s.setInputs v).draws = s.draws := rfl
@[simp] theorem State.setInputs_disturbed : (s.setInputs v).disturbed = s.disturbed := rfl

end setInputs

/-! ### setDisturbed -/

section setDisturbed

variable (s : State) (v : Bool)

@[simp] theorem State.setDisturbed_platform : (s.setDisturbed v).platform = s.platform := rfl
@[simp] theorem State.setDisturbed_cmd : (s.setDisturbed v).cmd = s.cmd := rfl
@[simp] theorem State.setDisturbed_status : (s.setDisturbed v).status = s.status := rfl
@[simp] theorem State.setDisturbed_src : (s.setDisturbed v).src = s.src := rfl
@[simp] theorem State.setDisturbed_dst : (s.setDisturbed v).dst = s.dst := rfl
@[simp] theorem State.setDisturbed_len : (s.setDisturbed v).len = s.len := rfl
@[simp] theorem State.setDisturbed_opa : (s.setDisturbed v).opa = s.opa := rfl
@[simp] theorem State.setDisturbed_opb : (s.setDisturbed v).opb = s.opb := rfl
@[simp] theorem State.setDisturbed_res0 : (s.setDisturbed v).res0 = s.res0 := rfl
@[simp] theorem State.setDisturbed_res1 : (s.setDisturbed v).res1 = s.res1 := rfl
@[simp] theorem State.setDisturbed_res2 : (s.setDisturbed v).res2 = s.res2 := rfl
@[simp] theorem State.setDisturbed_latched : (s.setDisturbed v).latched = s.latched := rfl
@[simp] theorem State.setDisturbed_mem : (s.setDisturbed v).mem = s.mem := rfl
@[simp] theorem State.setDisturbed_inputs : (s.setDisturbed v).inputs = s.inputs := rfl
@[simp] theorem State.setDisturbed_replies : (s.setDisturbed v).replies = s.replies := rfl
@[simp] theorem State.setDisturbed_draws : (s.setDisturbed v).draws = s.draws := rfl
@[simp] theorem State.setDisturbed_disturbed : (s.setDisturbed v).disturbed = v := rfl

end setDisturbed

/-! ### pushReply -/

section pushReply

variable (s : State) (v : Reply)

@[simp] theorem State.pushReply_platform : (s.pushReply v).platform = s.platform := rfl
@[simp] theorem State.pushReply_cmd : (s.pushReply v).cmd = s.cmd := rfl
@[simp] theorem State.pushReply_status : (s.pushReply v).status = s.status := rfl
@[simp] theorem State.pushReply_src : (s.pushReply v).src = s.src := rfl
@[simp] theorem State.pushReply_dst : (s.pushReply v).dst = s.dst := rfl
@[simp] theorem State.pushReply_len : (s.pushReply v).len = s.len := rfl
@[simp] theorem State.pushReply_opa : (s.pushReply v).opa = s.opa := rfl
@[simp] theorem State.pushReply_opb : (s.pushReply v).opb = s.opb := rfl
@[simp] theorem State.pushReply_res0 : (s.pushReply v).res0 = s.res0 := rfl
@[simp] theorem State.pushReply_res1 : (s.pushReply v).res1 = s.res1 := rfl
@[simp] theorem State.pushReply_res2 : (s.pushReply v).res2 = s.res2 := rfl
@[simp] theorem State.pushReply_latched : (s.pushReply v).latched = s.latched := rfl
@[simp] theorem State.pushReply_mem : (s.pushReply v).mem = s.mem := rfl
@[simp] theorem State.pushReply_inputs : (s.pushReply v).inputs = s.inputs := rfl
@[simp] theorem State.pushReply_replies : (s.pushReply v).replies = v :: s.replies := rfl
@[simp] theorem State.pushReply_draws : (s.pushReply v).draws = s.draws := rfl
@[simp] theorem State.pushReply_disturbed : (s.pushReply v).disturbed = s.disturbed := rfl

end pushReply

/-! ### addDraws -/

section addDraws

variable (s : State) (v : Nat)

@[simp] theorem State.addDraws_platform : (s.addDraws v).platform = s.platform := rfl
@[simp] theorem State.addDraws_cmd : (s.addDraws v).cmd = s.cmd := rfl
@[simp] theorem State.addDraws_status : (s.addDraws v).status = s.status := rfl
@[simp] theorem State.addDraws_src : (s.addDraws v).src = s.src := rfl
@[simp] theorem State.addDraws_dst : (s.addDraws v).dst = s.dst := rfl
@[simp] theorem State.addDraws_len : (s.addDraws v).len = s.len := rfl
@[simp] theorem State.addDraws_opa : (s.addDraws v).opa = s.opa := rfl
@[simp] theorem State.addDraws_opb : (s.addDraws v).opb = s.opb := rfl
@[simp] theorem State.addDraws_res0 : (s.addDraws v).res0 = s.res0 := rfl
@[simp] theorem State.addDraws_res1 : (s.addDraws v).res1 = s.res1 := rfl
@[simp] theorem State.addDraws_res2 : (s.addDraws v).res2 = s.res2 := rfl
@[simp] theorem State.addDraws_latched : (s.addDraws v).latched = s.latched := rfl
@[simp] theorem State.addDraws_mem : (s.addDraws v).mem = s.mem := rfl
@[simp] theorem State.addDraws_inputs : (s.addDraws v).inputs = s.inputs := rfl
@[simp] theorem State.addDraws_replies : (s.addDraws v).replies = s.replies := rfl
@[simp] theorem State.addDraws_draws : (s.addDraws v).draws = s.draws + v := rfl
@[simp] theorem State.addDraws_disturbed : (s.addDraws v).disturbed = s.disturbed := rfl

end addDraws

end Sys2Proof.Machine
end

