-- ==== Sys2Proof/Laws/Exec.lean ====
section
/-! SUPPORT. What starting, completing and running a command can change, once per shared operation: field by field
for start and completion, by cases for the format and entry checks, and the frame of a command (10_state.md R36,
60_exceptions.md R104, R107; 20_memory.md R45). -/

namespace Sys2Proof.Machine

/-! ### complete -/

section complete

variable (s : State) (c : ErrCode)

@[simp] theorem complete_platform : (complete s c).platform = s.platform := rfl
@[simp] theorem complete_cmd : (complete s c).cmd = s.cmd := rfl
@[simp] theorem complete_status : (complete s c).status = statusCompleted s.status c := rfl
@[simp] theorem complete_src : (complete s c).src = s.src := rfl
@[simp] theorem complete_dst : (complete s c).dst = s.dst := rfl
@[simp] theorem complete_len : (complete s c).len = s.len := rfl
@[simp] theorem complete_opa : (complete s c).opa = s.opa := rfl
@[simp] theorem complete_opb : (complete s c).opb = s.opb := rfl
@[simp] theorem complete_res0 : (complete s c).res0 = s.res0 := rfl
@[simp] theorem complete_res1 : (complete s c).res1 = s.res1 := rfl
@[simp] theorem complete_res2 : (complete s c).res2 = s.res2 := rfl
@[simp] theorem complete_latched : (complete s c).latched = s.latched := rfl
@[simp] theorem complete_mem : (complete s c).mem = s.mem := rfl
@[simp] theorem complete_inputs : (complete s c).inputs = s.inputs := rfl
@[simp] theorem complete_replies : (complete s c).replies = s.replies := rfl
@[simp] theorem complete_draws : (complete s c).draws = s.draws := rfl
@[simp] theorem complete_disturbed : (complete s c).disturbed = s.disturbed := rfl

end complete

/-! ### startCommand -/

section startCommand

variable (s : State) (v : Word)

@[simp] theorem startCommand_platform : (startCommand s v).platform = s.platform := rfl
@[simp] theorem startCommand_cmd : (startCommand s v).cmd = v := rfl
@[simp] theorem startCommand_status : (startCommand s v).status = statusStarted := rfl
@[simp] theorem startCommand_src : (startCommand s v).src = s.src := rfl
@[simp] theorem startCommand_dst : (startCommand s v).dst = s.dst := rfl
@[simp] theorem startCommand_len : (startCommand s v).len = s.len := rfl
@[simp] theorem startCommand_opa : (startCommand s v).opa = s.opa := rfl
@[simp] theorem startCommand_opb : (startCommand s v).opb = s.opb := rfl
@[simp] theorem startCommand_res0 : (startCommand s v).res0 = s.res0 := rfl
@[simp] theorem startCommand_res1 : (startCommand s v).res1 = s.res1 := rfl
@[simp] theorem startCommand_res2 : (startCommand s v).res2 = s.res2 := rfl
@[simp] theorem startCommand_latched : (startCommand s v).latched = ⟨v, s.src, s.dst, s.len, s.opa, s.opb⟩ := rfl
@[simp] theorem startCommand_mem : (startCommand s v).mem = s.mem := rfl
@[simp] theorem startCommand_inputs : (startCommand s v).inputs = s.inputs := rfl
@[simp] theorem startCommand_replies : (startCommand s v).replies = s.replies := rfl
@[simp] theorem startCommand_draws : (startCommand s v).draws = s.draws := rfl
@[simp] theorem startCommand_disturbed : (startCommand s v).disturbed = false := rfl

end startCommand

/-! ### drawSpan -/

/-- The part of a span inside the window is inside both. -/
theorem clipToWindow_mem {p : Platform} {sp : Span} {a : Nat} :
    InSpan (clipToWindow p sp) a ↔
      InSpan sp a ∧ p.memBase ≤ a ∧ a < p.memBase + p.memSize := by
  simp only [clipToWindow, InSpan]; omega

section drawSpan

variable (s : State) (sp : Span)

/-- Drawing a span changes the memory and the count of draws alone. -/
theorem drawSpan_eq :
    drawSpan s sp = { s with mem := (drawSpan s sp).mem, draws := s.draws + (clipToWindow s.platform sp).size } := rfl

@[simp] theorem drawSpan_platform : (drawSpan s sp).platform = s.platform := rfl
@[simp] theorem drawSpan_cmd : (drawSpan s sp).cmd = s.cmd := rfl
@[simp] theorem drawSpan_status : (drawSpan s sp).status = s.status := rfl
@[simp] theorem drawSpan_src : (drawSpan s sp).src = s.src := rfl
@[simp] theorem drawSpan_dst : (drawSpan s sp).dst = s.dst := rfl
@[simp] theorem drawSpan_len : (drawSpan s sp).len = s.len := rfl
@[simp] theorem drawSpan_opa : (drawSpan s sp).opa = s.opa := rfl
@[simp] theorem drawSpan_opb : (drawSpan s sp).opb = s.opb := rfl
@[simp] theorem drawSpan_res0 : (drawSpan s sp).res0 = s.res0 := rfl
@[simp] theorem drawSpan_res1 : (drawSpan s sp).res1 = s.res1 := rfl
@[simp] theorem drawSpan_res2 : (drawSpan s sp).res2 = s.res2 := rfl
@[simp] theorem drawSpan_latched : (drawSpan s sp).latched = s.latched := rfl
@[simp] theorem drawSpan_inputs : (drawSpan s sp).inputs = s.inputs := rfl
@[simp] theorem drawSpan_replies : (drawSpan s sp).replies = s.replies := rfl
@[simp] theorem drawSpan_draws :
    (drawSpan s sp).draws = s.draws + (clipToWindow s.platform sp).size := rfl
@[simp] theorem drawSpan_disturbed : (drawSpan s sp).disturbed = s.disturbed := rfl

end drawSpan

/-- Drawing a span keeps the canonical form. -/
theorem drawSpan_wf {s : State} (h : memWf s.mem = true) (sp : Span) : memWf (drawSpan s sp).mem = true :=
  memDraw_wf h _ _ _

/-- Which entries drawing a span can leave: those of the span inside the window, and those that were there. -/
theorem mem_drawSpan {s : State} {sp : Span} {c : Host.Cell} (h : c ∈ (drawSpan s sp).mem) :
    (InSpan sp c.1 ∧ s.platform.memBase ≤ c.1 ∧ c.1 < s.platform.memBase + s.platform.memSize) ∨ c ∈ s.mem :=
  (mem_memDraw h).imp clipToWindow_mem.mp id

/-- Drawing a span leaves every byte outside it, and every byte outside the window. -/
theorem readByte_drawSpan_outside {s : State} (h : memWf s.mem = true) {sp : Span} {b : Nat}
    (hb : ¬ (InSpan sp b ∧ s.platform.memBase ≤ b ∧ b < s.platform.memBase + s.platform.memSize)) :
    readByte (drawSpan s sp).mem b = readByte s.mem b := by
  refine readByte_memDraw_outside h ?_
  rw [← clipToWindow_mem] at hb
  unfold InSpan at hb
  omega

/-- A drawn byte is the free byte of a draw of its own. -/
theorem readByte_drawSpan_inside {s : State} (h : memWf s.mem = true) {sp : Span} {b : Nat} (hb : InSpan sp b)
    (hw : s.platform.memBase ≤ b ∧ b < s.platform.memBase + s.platform.memSize) :
    (clipToWindow s.platform sp).lo ≤ b ∧
      b - (clipToWindow s.platform sp).lo < (clipToWindow s.platform sp).size ∧
      readByte (drawSpan s sp).mem b = Config.freeByte (s.draws + (b - (clipToWindow s.platform sp).lo)) := by
  obtain ⟨h1, h2⟩ := clipToWindow_mem.mpr ⟨hb, hw⟩
  have hj : b - (clipToWindow s.platform sp).lo < (clipToWindow s.platform sp).size := by omega
  refine ⟨h1, hj, ?_⟩
  have e := readByte_memDraw_inside h (a := (clipToWindow s.platform sp).lo) (k := s.draws) hj
  rwa [Nat.add_sub_cancel' h1] at e

/-! ### Format, entry checks and outputs -/

/-- An operation with a format ends in FMT, or runs with the format's layout (R58). -/
theorem withFormat_cases (f : OutFmt) (s : State) (run : Layout → State) :
    (f = .reserved ∧ withFormat f s run = complete s .fmt) ∨
      ∃ l, layoutOf f = some l ∧ withFormat f s run = run l := by
  cases f
  case reserved => exact .inl ⟨rfl, rfl⟩
  all_goals exact .inr ⟨_, rfl, rfl⟩

/-- A kernel ends in FMT, in the error of its entry checks, or in its body (R104, R106). -/
theorem runKernel_cases (f : OutFmt) (s : State) (body : Layout → State) :
    (f = .reserved ∧ runKernel f s body = complete s .fmt) ∨
      (∃ l, layoutOf f = some l ∧ checkKernel s l ≠ .noError ∧
        runKernel f s body = complete (storeNothing s l) (checkKernel s l)) ∨
      ∃ l, layoutOf f = some l ∧ checkKernel s l = .noError ∧ runKernel f s body = body l := by
  rcases withFormat_cases f s fun l =>
      if checkKernel s l = .noError then body l else complete (storeNothing s l) (checkKernel s l)
    with ⟨rfl, h⟩ | ⟨l, hl, h⟩
  · exact .inl ⟨rfl, h⟩
  · right
    by_cases hc : checkKernel s l = .noError
    · exact .inr ⟨l, hl, hc, h.trans (if_pos hc)⟩
    · exact .inl ⟨l, hl, hc, h.trans (if_neg hc)⟩

/-- A kernel whose entry checks find an error completes with it and stores nothing (R104). -/
theorem runKernel_error {f : OutFmt} {l : Layout} (hl : layoutOf f = some l) {s : State}
    (h : checkKernel s l ≠ .noError) (body : Layout → State) :
    runKernel f s body = complete (storeNothing s l) (checkKernel s l) := by
  unfold runKernel withFormat; rw [hl]; exact if_neg h

/-- A kernel whose entry checks find no error runs its body (R104). -/
theorem runKernel_ok {f : OutFmt} {l : Layout} (hl : layoutOf f = some l) {s : State}
    (h : checkKernel s l = .noError) (body : Layout → State) : runKernel f s body = body l := by
  unfold runKernel withFormat; rw [hl]; exact if_pos h

/-- Two runs of a kernel that see the same checks and whose bodies and errors correspond by g correspond by g. -/
theorem runKernel_congr {f : OutFmt} {s s' : State} {body body' : Layout → State} (g : State → State)
    (hc : ∀ l, checkKernel s' l = checkKernel s l) (hf : ∀ c, complete s' c = g (complete s c))
    (he : ∀ l c, complete (storeNothing s' l) c = g (complete (storeNothing s l) c))
    (hb : ∀ l, body' l = g (body l)) : runKernel f s' body' = g (runKernel f s body) := by
  unfold runKernel withFormat
  cases layoutOf f with
  | none => exact hf _
  | some l =>
    dsimp only
    rw [hc, apply_ite g, hb, he]

/-- What the entry checks have made sure of when they find no error (R104). -/
theorem checkKernel_ok {s : State} {l : Layout} (h : checkKernel s l = .noError) :
    0 < count s ∧ srcAddr s ≠ 0 ∧ dstAddr s ≠ 0 ∧ srcAddr s % 4 = 0 ∧ dstAddr s % l.width = 0 ∧
      InWindow s.platform (srcAddr s) (4 * (count s).toNat) ∧
      InWindow s.platform (dstAddr s) (l.width * (count s).toNat) ∧
      ¬ Overlap (srcAddr s) (4 * (count s).toNat) (dstAddr s) (l.width * (count s).toNat) := by
  unfold checkKernel at h
  dsimp only at h
  repeat' split at h
  all_goals first
    | exact absurd h (by decide)
    | (simp only [not_or, not_le, Decidable.not_not] at *
       refine ⟨by assumption, ?_, ?_, ?_, ?_, ?_, ?_, by assumption⟩ <;> tauto)

/-- Every kernel has as many input elements as LEN says (R44). -/
@[simp] theorem inputElems_length (s : State) : (inputElems s).length = (count s).toNat := by
  simp [inputElems]

/-- Input element i of the list is the one read for index i (R44). -/
theorem inputElems_getElem? {s : State} {i : Nat} (h : i < (count s).toNat) :
    (inputElems s)[i]? = some (inputElem s i) := by
  simp [inputElems, h]

/-- Every input element is a 32-bit signed value (R44). -/
theorem inputElem_range (s : State) (i : Nat) : -2147483648 ≤ inputElem s i ∧ inputElem s i ≤ 2147483647 := by
  unfold inputElem; split <;> exact s32_range _

section storeOutputs

variable (s : State) (l : Layout) (os : List Int)

@[simp] theorem storeOutputs_platform : (storeOutputs s l os).platform = s.platform := by
  unfold storeOutputs; split <;> rfl
@[simp] theorem storeOutputs_cmd : (storeOutputs s l os).cmd = s.cmd := by
  unfold storeOutputs; split <;> rfl
@[simp] theorem storeOutputs_status : (storeOutputs s l os).status = s.status := by
  unfold storeOutputs; split <;> rfl
@[simp] theorem storeOutputs_src : (storeOutputs s l os).src = s.src := by
  unfold storeOutputs; split <;> rfl
@[simp] theorem storeOutputs_dst : (storeOutputs s l os).dst = s.dst := by
  unfold storeOutputs; split <;> rfl
@[simp] theorem storeOutputs_len : (storeOutputs s l os).len = s.len := by
  unfold storeOutputs; split <;> rfl
@[simp] theorem storeOutputs_opa : (storeOutputs s l os).opa = s.opa := by
  unfold storeOutputs; split <;> rfl
@[simp] theorem storeOutputs_opb : (storeOutputs s l os).opb = s.opb := by
  unfold storeOutputs; split <;> rfl
@[simp] theorem storeOutputs_res0 : (storeOutputs s l os).res0 = s.res0 := by
  unfold storeOutputs; split <;> rfl
@[simp] theorem storeOutputs_res1 : (storeOutputs s l os).res1 = s.res1 := by
  unfold storeOutputs; split <;> rfl
@[simp] theorem storeOutputs_res2 : (storeOutputs s l os).res2 = s.res2 := by
  unfold storeOutputs; split <;> rfl
@[simp] theorem storeOutputs_latched : (storeOutputs s l os).latched = s.latched := by
  unfold storeOutputs; split <;> rfl
@[simp] theorem storeOutputs_inputs : (storeOutputs s l os).inputs = s.inputs := by
  unfold storeOutputs; split <;> rfl
@[simp] theorem storeOutputs_replies : (storeOutputs s l os).replies = s.replies := by
  unfold storeOutputs; split <;> rfl
@[simp] theorem storeOutputs_disturbed : (storeOutputs s l os).disturbed = s.disturbed := by
  unfold storeOutputs; split <;> rfl

end storeOutputs

/-- An undisturbed kernel stores its outputs and draws nothing (R44). -/
theorem storeOutputs_undisturbed {s : State} (h : s.disturbed = false) (l : Layout) (os : List Int) :
    storeOutputs s l os = s.setMem (storeElems l.width s.mem (dstAddr s) os) := by
  unfold storeOutputs; rw [h]; rfl

/-- A disturbed kernel's OUT is drawn after its input elements (R51). -/
theorem storeOutputs_drawn {s : State} (h : s.disturbed = true) (l : Layout) (os : List Int) :
    storeOutputs s l os = drawSpan (s.addDraws (count s).toNat) (outSpan s l) := by
  unfold storeOutputs; rw [h]; rfl

/-- An undisturbed kernel that its entry checks stop leaves the state as it was (R104). -/
theorem storeNothing_undisturbed {s : State} (h : s.disturbed = false) (l : Layout) : storeNothing s l = s := by
  unfold storeNothing; rw [h]; rfl

/-- A disturbed kernel that its entry checks stop has its OUT drawn (R51). -/
theorem storeNothing_drawn {s : State} (h : s.disturbed = true) (l : Layout) :
    storeNothing s l = drawSpan s (outSpan s l) := by
  unfold storeNothing; rw [h]; rfl

/-- A kernel that its entry checks stop is as it was, or its OUT is drawn (R51, R104). -/
theorem storeNothing_cases (s : State) (l : Layout) :
    storeNothing s l = s ∨ storeNothing s l = drawSpan s (outSpan s l) := by
  cases h : s.disturbed
  · exact .inl (storeNothing_undisturbed h l)
  · exact .inr (storeNothing_drawn h l)

section storeNothing

variable (s : State) (l : Layout)

@[simp] theorem storeNothing_platform : (storeNothing s l).platform = s.platform := by
  unfold storeNothing; split <;> rfl
@[simp] theorem storeNothing_cmd : (storeNothing s l).cmd = s.cmd := by
  unfold storeNothing; split <;> rfl
@[simp] theorem storeNothing_status : (storeNothing s l).status = s.status := by
  unfold storeNothing; split <;> rfl
@[simp] theorem storeNothing_src : (storeNothing s l).src = s.src := by
  unfold storeNothing; split <;> rfl
@[simp] theorem storeNothing_dst : (storeNothing s l).dst = s.dst := by
  unfold storeNothing; split <;> rfl
@[simp] theorem storeNothing_len : (storeNothing s l).len = s.len := by
  unfold storeNothing; split <;> rfl
@[simp] theorem storeNothing_opa : (storeNothing s l).opa = s.opa := by
  unfold storeNothing; split <;> rfl
@[simp] theorem storeNothing_opb : (storeNothing s l).opb = s.opb := by
  unfold storeNothing; split <;> rfl
@[simp] theorem storeNothing_res0 : (storeNothing s l).res0 = s.res0 := by
  unfold storeNothing; split <;> rfl
@[simp] theorem storeNothing_res1 : (storeNothing s l).res1 = s.res1 := by
  unfold storeNothing; split <;> rfl
@[simp] theorem storeNothing_res2 : (storeNothing s l).res2 = s.res2 := by
  unfold storeNothing; split <;> rfl
@[simp] theorem storeNothing_latched : (storeNothing s l).latched = s.latched := by
  unfold storeNothing; split <;> rfl
@[simp] theorem storeNothing_inputs : (storeNothing s l).inputs = s.inputs := by
  unfold storeNothing; split <;> rfl
@[simp] theorem storeNothing_replies : (storeNothing s l).replies = s.replies := by
  unfold storeNothing; split <;> rfl
@[simp] theorem storeNothing_disturbed : (storeNothing s l).disturbed = s.disturbed := by
  unfold storeNothing; split <;> rfl

end storeNothing

/-- Storing the outputs leaves every byte outside OUT, whether or not the host disturbed the command (R45, R51). -/
theorem readByte_storeOutputs_outside {s : State} (h : memWf s.mem = true) (l : Layout) {os : List Int}
    (hn : os.length = (count s).toNat) {b : Nat}
    (hb : b < dstAddr s ∨ dstAddr s + l.width * (count s).toNat ≤ b) :
    readByte (storeOutputs s l os).mem b = readByte s.mem b := by
  unfold storeOutputs
  split
  · refine readByte_drawSpan_outside (s := s.addDraws _) h fun hc => ?_
    have := hc.1; simp only [InSpan, outSpan] at this; omega
  · exact readByte_storeElems_outside h (by rwa [hn])

/-- Storing the outputs keeps the canonical form. -/
theorem storeOutputs_wf {s : State} (h : memWf s.mem = true) (l : Layout) (os : List Int) :
    memWf (storeOutputs s l os).mem = true := by
  unfold storeOutputs; split
  · exact drawSpan_wf (s := s.addDraws _) h _
  · exact storeElems_wf h _ _

/-- Which entries storing the outputs can leave: those of OUT, and those that were there (R45). -/
theorem mem_storeOutputs {s : State} {l : Layout} {os : List Int} (hn : os.length = (count s).toNat)
    {c : Host.Cell} (h : c ∈ (storeOutputs s l os).mem) :
    (dstAddr s ≤ c.1 ∧ c.1 < dstAddr s + l.width * (count s).toNat) ∨ c ∈ s.mem := by
  unfold storeOutputs at h
  split at h
  · exact (mem_drawSpan h).imp And.left id
  · rw [← hn]; exact mem_storeElems h

/-! ### The frame of a command -/

/-- What every command leaves as it was, and what its completion does to STATUS (R107). -/
structure CommandFrame (s t : State) : Prop where
  platform : t.platform = s.platform
  cmd : t.cmd = s.cmd
  src : t.src = s.src
  dst : t.dst = s.dst
  len : t.len = s.len
  opa : t.opa = s.opa
  opb : t.opb = s.opb
  latched : t.latched = s.latched
  inputs : t.inputs = s.inputs
  replies : t.replies = s.replies
  disturbed : t.disturbed = s.disturbed
  status : t.status = statusCompleted s.status t.status.code

/-- A command that completes with an error code changes STATUS alone (R107). -/
theorem complete_frame (s : State) (c : ErrCode) : CommandFrame s (complete s c) := by
  constructor <;> rfl

/-- A kernel that its entry checks stop stays within the frame too (R51, R107). -/
theorem complete_storeNothing_frame (s : State) (l : Layout) (c : ErrCode) :
    CommandFrame s (complete (storeNothing s l) c) := by
  rcases storeNothing_cases s l with h | h <;> rw [h] <;> constructor <;> rfl

/-- A command that writes RES0 (R107). -/
theorem complete_res0_frame (s : State) (v : Word) : CommandFrame s (complete (s.setRes0 v) .noError) := by
  constructor <;> rfl

/-- A command that writes RES0 and RES1 (R107). -/
theorem complete_res01_frame (s : State) (v w : Word) :
    CommandFrame s (complete ((s.setRes0 v).setRes1 w) .noError) := by
  constructor <;> rfl

/-- A command that writes RES0, RES1 and RES2 (R107). -/
theorem complete_res012_frame (s : State) (v w x : Word) :
    CommandFrame s (complete (((s.setRes0 v).setRes1 w).setRes2 x) .noError) := by
  constructor <;> rfl

/-- A kernel's frame, from the frame of its body. -/
theorem runKernel_frame {f : OutFmt} {s : State} {body : Layout → State} (hb : ∀ l, CommandFrame s (body l)) :
    CommandFrame s (runKernel f s body) := by
  rcases runKernel_cases f s body with ⟨-, h⟩ | ⟨l, -, -, h⟩ | ⟨l, -, -, h⟩ <;> rw [h]
  · exact complete_frame _ _
  · exact complete_storeNothing_frame _ _ _
  · exact hb l

/-- A formatted operation's frame, from the frame of what it runs. -/
theorem withFormat_frame {f : OutFmt} {s : State} {run : Layout → State} (hr : ∀ l, CommandFrame s (run l)) :
    CommandFrame s (withFormat f s run) := by
  rcases withFormat_cases f s run with ⟨-, h⟩ | ⟨l, -, h⟩ <;> rw [h]
  · exact complete_frame _ _
  · exact hr l

/-- Every command answers a next state within its frame (R107, R109). -/
theorem exec_next (i : Instr) (s : State) : ∃ t, exec i s = .next t ∧ CommandFrame s t := by
  cases i with
  | rshr =>
    refine ⟨_, rfl, ?_⟩
    split
    · exact complete_frame _ _
    · exact complete_res0_frame _ _
  | satcvt f => exact ⟨_, rfl, withFormat_frame fun l => complete_res0_frame _ _⟩
  | mulq31 => exact ⟨_, rfl, complete_res0_frame _ _⟩
  | rredSig => exact ⟨_, rfl, complete_res012_frame _ _ _ _⟩
  | rredTanh => exact ⟨_, rfl, complete_res012_frame _ _ _ _⟩
  | poly => exact ⟨_, rfl, complete_res0_frame _ _⟩
  | antilog => exact ⟨_, rfl, complete_res012_frame _ _ _ _⟩
  | recip => exact ⟨_, rfl, complete_res012_frame _ _ _ _⟩
  | sig1 f => exact ⟨_, rfl, withFormat_frame fun l => complete_res01_frame _ _ _⟩
  | tanh1 f => exact ⟨_, rfl, withFormat_frame fun l => complete_res01_frame _ _ _⟩
  | vsigmoid f => exact ⟨_, rfl, runKernel_frame fun l => by constructor <;> simp [statusCompleted]⟩
  | vtanh f => exact ⟨_, rfl, runKernel_frame fun l => by constructor <;> simp [statusCompleted]⟩
  | vsoftmax f => exact ⟨_, rfl, runKernel_frame fun l => by constructor <;> simp [statusCompleted, setSoftmaxRes]⟩

/-- Which entries a command can leave in the memory: bytes of OUT inside the window, and those that were there
(R42, R45). -/
theorem exec_mem {i : Instr} {s t : State} (h : exec i s = .next t) (hw : memWf s.mem = true) :
    memWf t.mem = true ∧ ∀ c ∈ t.mem, c ∈ s.mem ∨
      (s.platform.memBase ≤ c.1 ∧ c.1 < s.platform.memBase + s.platform.memSize) := by
  have same : ∀ u : State, u.mem = s.mem → memWf u.mem = true ∧ ∀ c ∈ u.mem, c ∈ s.mem ∨
      (s.platform.memBase ≤ c.1 ∧ c.1 < s.platform.memBase + s.platform.memSize) :=
    fun u hu => by rw [hu]; exact ⟨hw, fun c hc => .inl hc⟩
  have fmt : ∀ (f : OutFmt) (run : Layout → State), (∀ l, (run l).mem = s.mem) → (withFormat f s run).mem = s.mem := by
    intro f run hr
    rcases withFormat_cases f s run with ⟨-, e⟩ | ⟨l, -, e⟩ <;> rw [e]
    · rfl
    · exact hr l
  have ker : ∀ (f : OutFmt) (body : Layout → State),
      (∀ l, ∃ os, os.length = (count s).toNat ∧ (body l).mem = (storeOutputs s l os).mem) →
      memWf (runKernel f s body).mem = true ∧ ∀ c ∈ (runKernel f s body).mem, c ∈ s.mem ∨
        (s.platform.memBase ≤ c.1 ∧ c.1 < s.platform.memBase + s.platform.memSize) := by
    intro f body hb
    rcases runKernel_cases f s body with ⟨-, e⟩ | ⟨l, -, -, e⟩ | ⟨l, -, hc, e⟩ <;> rw [e]
    · exact same _ rfl
    · rcases storeNothing_cases s l with hn | hn <;> rw [hn]
      · exact same _ rfl
      · exact ⟨drawSpan_wf hw _, fun c hcm => (mem_drawSpan hcm).elim (fun h => .inr h.2) .inl⟩
    · obtain ⟨os, ho, hm⟩ := hb l
      rw [hm]
      refine ⟨storeOutputs_wf hw _ _, fun c hcm => ?_⟩
      rcases mem_storeOutputs ho hcm with hcm | hcm
      · obtain ⟨-, -, -, -, -, -, hout, -⟩ := checkKernel_ok hc
        right; omega
      · exact .inl hcm
  cases i <;> (injection h with h; subst h)
  case rshr => apply same; split <;> rfl
  case satcvt f => exact same _ (fmt _ _ fun _ => rfl)
  case sig1 f => exact same _ (fmt _ _ fun _ => rfl)
  case tanh1 f => exact same _ (fmt _ _ fun _ => rfl)
  case vsigmoid f => exact ker _ _ fun l => ⟨_, by simp, rfl⟩
  case vtanh f => exact ker _ _ fun l => ⟨_, by simp, rfl⟩
  case vsoftmax f => exact ker _ _ fun l => ⟨softmaxOuts l (inputElems s), by simp [softmaxOuts], rfl⟩
  all_goals exact same _ rfl

end Sys2Proof.Machine
end

