-- ==== Sys2Proof/Laws/PerInstr.lean ====
section
/-! SUPPORT. Statements made per command: the fields of its encoding (30_encoding.md R55, R57, R61). -/

namespace Sys2Proof.Laws.EncodedFields

/-- The encoding of a command has OP and OFMT where R55 puts them, and its reserved bits are 0. -/
def Statement (i : Instr) : Prop :=
  opField (encode i) = i.opcode ∧ ofmtField (encode i) = i.ofmtCode ∧ rsvLoField (encode i) = 0 ∧
    rsvHiField (encode i) = 0

theorem rshr : Statement .rshr := by unfold Statement; decide
theorem satcvt (f : OutFmt) : Statement (.satcvt f) := by unfold Statement; cases f <;> decide
theorem mulq31 : Statement .mulq31 := by unfold Statement; decide
theorem rredSig : Statement .rredSig := by unfold Statement; decide
theorem rredTanh : Statement .rredTanh := by unfold Statement; decide
theorem poly : Statement .poly := by unfold Statement; decide
theorem antilog : Statement .antilog := by unfold Statement; decide
theorem recip : Statement .recip := by unfold Statement; decide
theorem sig1 (f : OutFmt) : Statement (.sig1 f) := by unfold Statement; cases f <;> decide
theorem tanh1 (f : OutFmt) : Statement (.tanh1 f) := by unfold Statement; cases f <;> decide
theorem vsigmoid (f : OutFmt) : Statement (.vsigmoid f) := by unfold Statement; cases f <;> decide
theorem vtanh (f : OutFmt) : Statement (.vtanh f) := by unfold Statement; cases f <;> decide
theorem vsoftmax (f : OutFmt) : Statement (.vsoftmax f) := by unfold Statement; cases f <;> decide

end Sys2Proof.Laws.EncodedFields
end

