-- ==== Sys2Proof/Laws/Softmax.lean ====
section
/-! SUPPORT. Softmax: the maximum, the sum and its normalisation, and the range of an output
(45_softmax.md R97 to R100). -/

namespace Sys2Proof.Machine

/-- A running maximum is one of the values met, and none is larger. -/
theorem foldl_max_spec (xs : List Int) (x : Int) :
    (xs.foldl max x = x ∨ xs.foldl max x ∈ xs) ∧ x ≤ xs.foldl max x ∧ ∀ y ∈ xs, y ≤ xs.foldl max x := by
  induction xs generalizing x with
  | nil => simp
  | cons a as ih =>
    obtain ⟨h1, h2, h3⟩ := ih (max x a)
    simp only [List.foldl_cons]
    refine ⟨?_, by omega, fun y hy => ?_⟩
    · rcases h1 with h1 | h1
      · rw [h1]; rcases max_choice x a with h | h <;> rw [h] <;> simp
      · right; simp [h1]
    · rcases List.mem_cons.mp hy with rfl | hy
      · omega
      · exact h3 y hy

/-- m is an input, and no input is larger (R97). -/
theorem maxElem_spec {xs : List Int} (h : xs ≠ []) : maxElem xs ∈ xs ∧ ∀ y ∈ xs, y ≤ maxElem xs := by
  cases xs with
  | nil => exact absurd rfl h
  | cons x xs =>
    obtain ⟨h1, h2, h3⟩ := foldl_max_spec xs x
    have e : maxElem (x :: xs) = xs.foldl max x := rfl
    rw [e]
    refine ⟨by rcases h1 with h | h <;> simp [h], fun y hy => ?_⟩
    rcases List.mem_cons.mp hy with rfl | hy
    · exact h2
    · exact h3 y hy

/-- Shifting every input shifts the maximum. -/
theorem maxElem_shift {xs : List Int} (h : xs ≠ []) (c : Int) : maxElem (xs.map (· + c)) = maxElem xs + c := by
  have h1 := maxElem_spec h
  have h2 := maxElem_spec (xs := xs.map (· + c)) (by simpa using h)
  obtain ⟨y, hy, e⟩ := List.mem_map.mp h2.1
  have h3 := h1.2 y hy
  have h4 := h2.2 (maxElem xs + c) (List.mem_map.mpr ⟨_, h1.1, rfl⟩)
  omega

/-- A sum of values that are not negative is at least each of them. -/
theorem le_sum {xs : List Int} (h : ∀ x ∈ xs, 0 ≤ x) {y : Int} (hy : y ∈ xs) : y ≤ xs.sum := by
  induction xs with
  | nil => cases hy
  | cons a as ih =>
    have hs : 0 ≤ as.sum := List.sum_nonneg fun x hx => h x (by simp [hx])
    have ha := h a (by simp)
    rw [List.sum_cons]
    rcases List.mem_cons.mp hy with rfl | hy
    · omega
    · have := ih (fun x hx => h x (by simp [hx])) hy; omega

/-- S is at least the e of the maximum (R98). -/
theorem expSum_ge {xs : List Int} (h : xs ≠ []) : 2147483647 ≤ expSum xs := by
  have e : expElem (maxElem xs) (maxElem xs) = 2147483647 := by unfold expElem; rw [sub_self]; decide
  rw [← e]
  refine le_sum (fun x hx => ?_) (List.mem_map.mpr ⟨_, (maxElem_spec h).1, rfl⟩)
  obtain ⟨y, -, rfl⟩ := List.mem_map.mp hx
  exact (antilog_range _).1

/-- The bit length brackets its number (R99). -/
theorem bitLength_spec {n : Nat} (h : n ≠ 0) : 1 ≤ bitLength n ∧ 2 ^ (bitLength n - 1) ≤ n ∧ n < 2 ^ bitLength n := by
  unfold bitLength; rw [if_neg h]
  exact ⟨by omega, by simpa using Nat.log2_self_le h, Nat.lt_log2_self⟩

/-- The normalised sum: e_s brackets S, and xs is a Q31 value that is not negative (R99). -/
theorem sumExp_spec {s : Int} (h : 2147483647 ≤ s) :
    0 ≤ sumExp s + 1 ∧ 2 ^ (sumExp s + 31).toNat ≤ s ∧ s < 2 ^ (sumExp s + 32).toNat ∧
      sumFraction s = (if 0 ≤ sumExp s then s / 2 ^ (sumExp s).toNat else 2 * s) - 2147483648 ∧
      0 ≤ sumFraction s ∧ sumFraction s ≤ 2147483647 := by
  obtain ⟨n, rfl⟩ : ∃ n : Nat, s = n := ⟨s.toNat, by omega⟩
  obtain ⟨h1, h2, h3⟩ := bitLength_spec (n := n) (by omega)
  unfold sumExp sumFraction
  simp only [Int.toNat_natCast]
  generalize bitLength n = b at *
  have hb : 31 ≤ b := by
    by_contra hc
    have : 2 ^ b ≤ 2 ^ 30 := Nat.pow_le_pow_right (by norm_num) (by omega)
    norm_num at this; omega
  have e1 : ((b : Int) - 32 + 31).toNat = b - 1 := by omega
  have e2 : ((b : Int) - 32 + 32).toNat = b := by omega
  rw [e1, e2]
  have c2 : (2 : Int) ^ (b - 1) ≤ n := by exact_mod_cast h2
  have c3 : (n : Int) < 2 ^ b := by exact_mod_cast h3
  refine ⟨by omega, c2, c3, ?_, ?_⟩
  · by_cases hc : 32 ≤ b
    · have e3 : ((b : Int) - 32).toNat = b - 32 := by omega
      rw [if_pos hc, if_pos (by omega), e3]; unfold asr; norm_num
    · rw [if_neg hc, if_neg (by omega)]; norm_num; ring
  · by_cases hc : 32 ≤ b
    · rw [if_pos hc]
      obtain ⟨k, rfl⟩ : ∃ k, b = k + 32 := ⟨b - 32, by omega⟩
      unfold asr
      simp only [Nat.add_sub_cancel]
      have hp : (0 : Int) < 2 ^ k := by positivity
      have g1 : (2147483648 : Int) ≤ n / 2 ^ k := by
        rw [Int.le_ediv_iff_mul_le hp]
        have : (2 : Int) ^ (k + 32 - 1) = 2147483648 * 2 ^ k := by rw [show k + 32 - 1 = k + 31 by omega]; ring
        omega
      have g2 : (n : Int) / 2 ^ k < 4294967296 := by
        rw [Int.ediv_lt_iff_lt_mul hp]
        have : (2 : Int) ^ (k + 32) = 4294967296 * 2 ^ k := by ring
        omega
      norm_num; omega
    · rw [if_neg hc]
      have e3 : b = 31 := by omega
      subst e3; norm_num at c2 c3 ⊢; omega

/-- The shared reciprocal is a Q31 value that is not negative (R100). -/
theorem sumRecip_range {s : Int} (h : 2147483647 ≤ s) : 0 ≤ sumRecip s ∧ sumRecip s ≤ 2147483647 := by
  have hs := sumExp_spec h
  exact (recip_range hs.2.2.2.2.1 hs.2.2.2.2.2).2

/-- Scaling keeps a Q31 value that is not negative one (R100). -/
theorem scaleOut_range {es q : Int} (h : 0 ≤ q) (h' : q ≤ 2147483647) :
    0 ≤ scaleOut es q ∧ scaleOut es q ≤ 2147483647 := by
  unfold scaleOut
  split
  · have := asr_nonneg h es.toNat; omega
  · rw [sat32_eq]; split <;> (try split) <;> omega

/-- Every output is a Q31 value that is not negative (R103). -/
theorem softmaxQ31_range {xs : List Int} (h : xs ≠ []) (x : Int) :
    0 ≤ softmaxQ31 xs x ∧ softmaxQ31 xs x ≤ 2147483647 := by
  have h1 := antilog_range (sat 32 (x - maxElem xs))
  have h2 := sumRecip_range (expSum_ge h)
  have h3 := mulQ31_range h1.1 h1.2 h2.1 h2.2
  exact scaleOut_range h3.1 (by unfold expElem; omega)

end Sys2Proof.Machine
end

