-- ==== Sys2Proof/Laws/Step.lean ====
section
/-! SUPPORT. What one step can do: the event that happens, the host's accesses by target, and reset
(10_state.md R18, R19, R36; 20_memory.md R51; 70_reset_and_hazards.md R115). -/

namespace Sys2Proof.Machine

/-! ### Which event happens -/

/-- With nothing scheduled the engine has its turn. -/
theorem step_nil {s : State} (h : s.inputs = []) : step s = engineStep s := by unfold step advance; rw [h]

/-- The engine's turn. -/
theorem step_engine {s : State} {es : List Event} (h : s.inputs = .engine :: es) :
    step s = engineStep (s.setInputs es) := by unfold step advance; rw [h]

/-- A host access. -/
theorem step_host {s : State} {act : HostAction} {es : List Event} (h : s.inputs = .host act :: es) :
    step s = hostStep act (s.setInputs es) := by unfold step advance; rw [h]

/-- A reset. -/
theorem step_reset {s : State} {es : List Event} (h : s.inputs = .reset :: es) :
    step s = .next (resetStep (s.setInputs es)) := by unfold step advance; rw [h]

/-- What the engine's turn can be: nothing in IDLE, a command, or an encoding error (R36, R58). -/
theorem engineStep_cases (s : State) :
    (s.status.busy = false ∧ engineStep s = .next s) ∨
      (s.status.busy = true ∧ ∃ i, decode s.latched.cmd = .ok i ∧ engineStep s = exec i s) ∨
      (s.status.busy = true ∧ decode s.latched.cmd = .illegal ∧ engineStep s = .next (complete s .illegal)) ∨
      (s.status.busy = true ∧ decode s.latched.cmd = .fmt ∧ engineStep s = .next (complete s .fmt)) := by
  unfold engineStep
  cases hb : s.status.busy
  · exact .inl ⟨rfl, rfl⟩
  · right
    simp only [if_true]
    cases hd : decode s.latched.cmd with
    | ok i => exact .inl ⟨trivial, i, rfl, rfl⟩
    | illegal => exact .inr (.inl ⟨trivial, rfl, rfl⟩)
    | fmt => exact .inr (.inr ⟨trivial, rfl, rfl⟩)

/-- In BUSY the engine's turn completes the command, within its frame (R36, R107). -/
theorem engineStep_busy {s : State} (h : s.status.busy = true) :
    ∃ t, engineStep s = .next t ∧ CommandFrame s t := by
  rcases engineStep_cases s with ⟨hb, -⟩ | ⟨-, i, -, e⟩ | ⟨-, -, e⟩ | ⟨-, -, e⟩
  · rw [h] at hb; cases hb
  · rw [e]; exact exec_next i s
  · exact ⟨_, e, complete_frame _ _⟩
  · exact ⟨_, e, complete_frame _ _⟩

/-- One step, said once: the engine's turn, a host read or write of a register or of the window, or a reset. -/
theorem step_cases {s t : State} (h : step s = .next t) :
    (∃ es, (s.inputs = [] ∧ es = [] ∨ s.inputs = .engine :: es) ∧ engineStep (s.setInputs es) = .next t) ∨
      (∃ es a n off, s.inputs = .host (.read a n) :: es ∧ targetOf s.platform (u32 a) n = .register off ∧
        t = (s.setInputs es).pushReply (.reg (readOffset (s.setInputs es) off))) ∨
      (∃ es a n, s.inputs = .host (.read a n) :: es ∧ targetOf s.platform (u32 a) n = .window ∧
        t = hostReadWindow (s.setInputs es) (u32 a) n) ∨
      (∃ es a n v off, s.inputs = .host (.write a n v) :: es ∧
        targetOf s.platform (u32 a) n = .register off ∧
        t = writeOffset (s.setInputs es) off (BitVec.ofNat 32 v)) ∨
      (∃ es a n v, s.inputs = .host (.write a n v) :: es ∧ targetOf s.platform (u32 a) n = .window ∧
        t = hostWriteWindow (s.setInputs es) (u32 a) n v) ∨
      ∃ es, s.inputs = .reset :: es ∧ t = resetStep (s.setInputs es) := by
  cases hi : s.inputs with
  | nil =>
    have e : s.setInputs [] = s := by rw [← hi]; rfl
    rw [step_nil hi] at h
    exact .inl ⟨[], .inl ⟨rfl, rfl⟩, by rw [e]; exact h⟩
  | cons ev es =>
    cases ev with
    | engine => rw [step_engine hi] at h; exact .inl ⟨es, .inr rfl, h⟩
    | reset =>
      rw [step_reset hi] at h
      injection h with h
      exact .inr (.inr (.inr (.inr (.inr ⟨es, rfl, h.symm⟩))))
    | host act =>
      rw [step_host hi] at h
      unfold hostStep at h
      simp only [State.setInputs_platform] at h
      cases act with
      | read a n =>
        cases ht : targetOf s.platform (u32 a) n with
        | register off =>
          simp only [ht] at h; injection h with h
          exact .inr (.inl ⟨es, a, n, off, rfl, ht, h.symm⟩)
        | window =>
          simp only [ht] at h; injection h with h
          exact .inr (.inr (.inl ⟨es, a, n, rfl, ht, h.symm⟩))
        | badRegister => simp only [ht] at h; cases h
        | outside => simp only [ht] at h; cases h
      | write a n v =>
        cases ht : targetOf s.platform (u32 a) n with
        | register off =>
          simp only [ht] at h; injection h with h
          exact .inr (.inr (.inr (.inl ⟨es, a, n, v, off, rfl, ht, h.symm⟩)))
        | window =>
          simp only [ht] at h; injection h with h
          exact .inr (.inr (.inr (.inr (.inl ⟨es, a, n, v, rfl, ht, h.symm⟩))))
        | badRegister => simp only [ht] at h; cases h
        | outside => simp only [ht] at h; cases h

/-! ### Targets -/

/-- A register's address reaches that register (R19, R20). -/
theorem targetOf_regAddr {p : Platform} (hp : p.Admissible) (r : Reg) :
    targetOf p (u32 (regAddr p r)) 4 = .register (regOffset r) := by
  obtain ⟨h1, h2, -⟩ := hp
  have hr : regOffset r ≤ 0x5C ∧ regOffset r % 4 = 0 := by cases r <;> decide
  have ha : u32 (regAddr p r) = p.regBase + regOffset r := by
    unfold u32 regAddr; rw [BitVec.toNat_ofNat]; omega
  unfold targetOf
  rw [ha, if_pos ⟨by omega, by omega⟩, if_pos ⟨rfl, by omega, by omega⟩, Nat.add_sub_cancel_left]

/-- An offset is a register's exactly when the map says so (R20). -/
theorem regAt_regOffset (r : Reg) : regAt (regOffset r) = some r := by cases r <;> rfl

/-- Bytes inside the window reach the window (R8, R41). -/
theorem targetOf_window {p : Platform} (hp : p.Admissible) {a n : Nat} (hn : 0 < n) (hw : InWindow p a n) :
    targetOf p a n = .window := by
  obtain ⟨-, -, -, -, h⟩ := hp
  unfold targetOf
  rw [if_neg (by omega), if_pos hw]

/-- An access that reaches the window has all its bytes there (R47). -/
theorem targetOf_eq_window {p : Platform} {a n : Nat} (h : targetOf p a n = .window) : InWindow p a n := by
  unfold targetOf at h
  split at h
  · split at h <;> cases h
  · split at h
    · assumption
    · cases h

/-- An access that reaches a register is one word at that register's offset from REG_BASE (R19). -/
theorem targetOf_eq_register {p : Platform} {a n off : Nat} (h : targetOf p a n = .register off) :
    n = 4 ∧ a = p.regBase + off ∧ off < 256 ∧ off % 4 = 0 := by
  unfold targetOf at h
  split at h
  · split at h
    · injection h with h; unfold Overlap at *; omega
    · cases h
  · split at h <;> cases h

/-- The host's `wr` to a register (R62). -/
theorem step_scriptWr {s : State} (hp : s.platform.Admissible) {r : Reg} {v : Word} {es : List Event}
    (hi : s.inputs = scriptWr s.platform r v :: es) : step s = .next (writeReg (s.setInputs es) v r) := by
  rw [step_host hi]
  unfold hostStep
  simp only [State.setInputs_platform]
  rw [targetOf_regAddr hp]
  have hv : BitVec.ofNat 32 (u32 v) = v := by unfold u32; simp
  simp only [writeOffset, regAt_regOffset, hv]

/-- The host's `rd` of a register (R62). -/
theorem step_scriptRd {s : State} (hp : s.platform.Admissible) {r : Reg} {es : List Event}
    (hi : s.inputs = scriptRd s.platform r :: es) :
    step s = .next ((s.setInputs es).pushReply (.reg (readReg (s.setInputs es) r))) := by
  rw [step_host hi]
  unfold hostStep
  simp only [State.setInputs_platform]
  rw [targetOf_regAddr hp]
  simp only [readOffset, regAt_regOffset]

/-- The first of k + 1 steps. -/
theorem run_succ (m : Host.Core) (k : Nat) {s t : m.State} (h : m.step s = .next t) :
    m.run (k + 1) s = m.run k t := by rw [Host.Core.run, h]

/-! ### The bytes a host read gets -/

/-- n bytes for the host are below 256^n. -/
theorem hostBytes_lt (s : State) (a n k : Nat) : hostBytes s a n k < 256 ^ n := by
  induction n generalizing a k with
  | zero => simp [hostBytes]
  | succ n ih =>
    have h := ih (a + 1) (k + 1)
    have hb := (hostByte s a k).isLt
    rw [hostBytes, Nat.pow_succ]; omega

/-- Byte j of a host read is the byte at a + j, or draw k + j (R51). -/
theorem hostBytes_byte (s : State) {a n k j : Nat} (hj : j < n) :
    hostBytes s a n k / 256 ^ j % 256 = (hostByte s (a + j) (k + j)).toNat := by
  induction n generalizing a k j with
  | zero => omega
  | succ n ih =>
    have hb := (hostByte s a k).isLt
    rw [hostBytes]
    cases j with
    | zero => simp; omega
    | succ j =>
      have e : ((hostByte s a k).toNat + 256 * hostBytes s (a + 1) n (k + 1)) / 256 =
          hostBytes s (a + 1) n (k + 1) := by omega
      rw [Nat.pow_succ', ← Nat.div_div_eq_div_mul, e, ih (by omega)]
      congr 2 <;> omega

/-- An access meets a span in some byte. -/
theorem meets_iff (sp : Span) (a n : Nat) : Meets sp a n ↔ ∃ b, a ≤ b ∧ b < a + n ∧ InSpan sp b := by
  unfold Meets InSpan
  constructor
  · intro h; exact ⟨max a sp.lo, by omega, by omega, by omega⟩
  · rintro ⟨b, h⟩; omega

/-! ### Host accesses and reset, by field -/

/-- A register write, by cases: an operand register, a started command, a lost one, or nothing (R21, R26, R28 to
R31). -/
theorem writeOffset_cases (s : State) (off : Nat) (v : Word) :
    writeOffset s off v = s ∨ writeOffset s off v = s.setSrc v ∨ writeOffset s off v = s.setDst v ∨
      writeOffset s off v = s.setLen v ∨ writeOffset s off v = s.setOpa v ∨ writeOffset s off v = s.setOpb v ∨
      (s.status.busy = true ∧ writeOffset s off v = s.setStatus (statusLost s.status)) ∨
      (s.status.busy = false ∧ writeOffset s off v = startCommand s v) := by
  unfold writeOffset
  cases regAt off with
  | none => exact .inl rfl
  | some r =>
    cases r
    case cmd =>
      cases hb : s.status.busy
      · exact .inr (.inr (.inr (.inr (.inr (.inr (.inr ⟨rfl, by simp [writeReg, hb]⟩))))))
      · exact .inr (.inr (.inr (.inr (.inr (.inr (.inl ⟨rfl, by simp [writeReg, hb]⟩))))))
    case src => exact .inr (.inl rfl)
    case dst => exact .inr (.inr (.inl rfl))
    case len => exact .inr (.inr (.inr (.inl rfl)))
    case opa => exact .inr (.inr (.inr (.inr (.inl rfl))))
    case opb => exact .inr (.inr (.inr (.inr (.inr (.inl rfl)))))
    all_goals exact .inl rfl

/-- A register write at another offset than CMD's leaves STATUS and CMD and starts nothing (R19, R28 to R34). -/
theorem writeOffset_not_cmd (s : State) {off : Nat} (h : off ≠ 0x00) (v : Word) :
    (writeOffset s off v).status = s.status ∧ (writeOffset s off v).cmd = s.cmd ∧
      (writeOffset s off v).latched = s.latched := by
  unfold writeOffset
  cases hr : regAt off with
  | none => exact ⟨rfl, rfl, rfl⟩
  | some r =>
    cases r
    case cmd => unfold regAt at hr; split at hr <;> first | exact absurd rfl h | cases hr
    all_goals exact ⟨rfl, rfl, rfl⟩

section hostReadWindow

variable (s : State) (a n : Nat)

@[simp] theorem hostReadWindow_platform : (hostReadWindow s a n).platform = s.platform := by
  unfold hostReadWindow; dsimp only; split <;> rfl
@[simp] theorem hostReadWindow_cmd : (hostReadWindow s a n).cmd = s.cmd := by
  unfold hostReadWindow; dsimp only; split <;> rfl
@[simp] theorem hostReadWindow_status : (hostReadWindow s a n).status = s.status := by
  unfold hostReadWindow; dsimp only; split <;> rfl
@[simp] theorem hostReadWindow_src : (hostReadWindow s a n).src = s.src := by
  unfold hostReadWindow; dsimp only; split <;> rfl
@[simp] theorem hostReadWindow_dst : (hostReadWindow s a n).dst = s.dst := by
  unfold hostReadWindow; dsimp only; split <;> rfl
@[simp] theorem hostReadWindow_len : (hostReadWindow s a n).len = s.len := by
  unfold hostReadWindow; dsimp only; split <;> rfl
@[simp] theorem hostReadWindow_opa : (hostReadWindow s a n).opa = s.opa := by
  unfold hostReadWindow; dsimp only; split <;> rfl
@[simp] theorem hostReadWindow_opb : (hostReadWindow s a n).opb = s.opb := by
  unfold hostReadWindow; dsimp only; split <;> rfl
@[simp] theorem hostReadWindow_res0 : (hostReadWindow s a n).res0 = s.res0 := by
  unfold hostReadWindow; dsimp only; split <;> rfl
@[simp] theorem hostReadWindow_res1 : (hostReadWindow s a n).res1 = s.res1 := by
  unfold hostReadWindow; dsimp only; split <;> rfl
@[simp] theorem hostReadWindow_res2 : (hostReadWindow s a n).res2 = s.res2 := by
  unfold hostReadWindow; dsimp only; split <;> rfl
@[simp] theorem hostReadWindow_latched : (hostReadWindow s a n).latched = s.latched := by
  unfold hostReadWindow; dsimp only; split <;> rfl
@[simp] theorem hostReadWindow_mem : (hostReadWindow s a n).mem = s.mem := by
  unfold hostReadWindow; dsimp only; split <;> rfl
@[simp] theorem hostReadWindow_inputs : (hostReadWindow s a n).inputs = s.inputs := by
  unfold hostReadWindow; dsimp only; split <;> rfl
@[simp] theorem hostReadWindow_disturbed : (hostReadWindow s a n).disturbed = s.disturbed := by
  unfold hostReadWindow; dsimp only; split <;> rfl

end hostReadWindow

section hostWriteWindow

variable (s : State) (a n v : Nat)

@[simp] theorem hostWriteWindow_platform : (hostWriteWindow s a n v).platform = s.platform := rfl
@[simp] theorem hostWriteWindow_cmd : (hostWriteWindow s a n v).cmd = s.cmd := rfl
@[simp] theorem hostWriteWindow_status : (hostWriteWindow s a n v).status = s.status := rfl
@[simp] theorem hostWriteWindow_src : (hostWriteWindow s a n v).src = s.src := rfl
@[simp] theorem hostWriteWindow_dst : (hostWriteWindow s a n v).dst = s.dst := rfl
@[simp] theorem hostWriteWindow_len : (hostWriteWindow s a n v).len = s.len := rfl
@[simp] theorem hostWriteWindow_opa : (hostWriteWindow s a n v).opa = s.opa := rfl
@[simp] theorem hostWriteWindow_opb : (hostWriteWindow s a n v).opb = s.opb := rfl
@[simp] theorem hostWriteWindow_res0 : (hostWriteWindow s a n v).res0 = s.res0 := rfl
@[simp] theorem hostWriteWindow_res1 : (hostWriteWindow s a n v).res1 = s.res1 := rfl
@[simp] theorem hostWriteWindow_res2 : (hostWriteWindow s a n v).res2 = s.res2 := rfl
@[simp] theorem hostWriteWindow_latched : (hostWriteWindow s a n v).latched = s.latched := rfl
@[simp] theorem hostWriteWindow_mem : (hostWriteWindow s a n v).mem = memWrite s.mem a n v := rfl
@[simp] theorem hostWriteWindow_inputs : (hostWriteWindow s a n v).inputs = s.inputs := rfl
@[simp] theorem hostWriteWindow_replies : (hostWriteWindow s a n v).replies = s.replies := rfl
@[simp] theorem hostWriteWindow_draws : (hostWriteWindow s a n v).draws = s.draws := rfl

end hostWriteWindow

section resetStep

variable (s : State)

@[simp] theorem resetStep_platform : (resetStep s).platform = s.platform := rfl
@[simp] theorem resetStep_cmd : (resetStep s).cmd = 0 := rfl
@[simp] theorem resetStep_status : (resetStep s).status = Status.idle := rfl
@[simp] theorem resetStep_src : (resetStep s).src = 0 := rfl
@[simp] theorem resetStep_dst : (resetStep s).dst = 0 := rfl
@[simp] theorem resetStep_len : (resetStep s).len = 0 := rfl
@[simp] theorem resetStep_opa : (resetStep s).opa = 0 := rfl
@[simp] theorem resetStep_opb : (resetStep s).opb = 0 := rfl
@[simp] theorem resetStep_res0 : (resetStep s).res0 = 0 := rfl
@[simp] theorem resetStep_res1 : (resetStep s).res1 = 0 := rfl
@[simp] theorem resetStep_res2 : (resetStep s).res2 = 0 := rfl
@[simp] theorem resetStep_inputs : (resetStep s).inputs = s.inputs := rfl
@[simp] theorem resetStep_replies : (resetStep s).replies = s.replies := rfl
@[simp] theorem resetStep_disturbed : (resetStep s).disturbed = false := rfl
@[simp] theorem resetStep_mem : (resetStep s).mem = (drawSpan s (runningOut s)).mem := rfl

end resetStep

/-- In IDLE no command is running, so none has a buffer (R45). -/
theorem runningOut_idle {s : State} (h : s.status.busy = false) : runningOut s = ⟨0, 0⟩ := by
  simp [runningOut, runningLayout, h]

end Sys2Proof.Machine
end

