-- ==== Sys2Proof/Tests/Slice0.lean ====
section
/-! SUPPORT. The model's own tests. Every expected value is the spec's: its worked examples (40_qformat.md to
45_softmax.md), its encodings (30_encoding.md) or its derived vectors (95_test_vectors.md). -/

namespace Sys2Proof.Tests

open Sys2Proof Sys2Proof.Machine Sys2Proof.Safety Sys2Proof.Stated

/-- The example platform of 95_test_vectors.md section 3. -/
def plat : Platform := ⟨0x40000000, 0x1000, 0x1000⟩

/-- QACT after reset on the example platform. -/
def base : State := { State.reset with platform := plat }

/-- A running scalar command and the engine's turn: operands latched, RES0 to RES2 at 7, 8, 9. -/
def scalar (c a b : Word) : State :=
  { base with
    cmd := c, latched := ⟨c, 0, 0, 0, a, b⟩, status := statusStarted, res0 := 7, res1 := 8, res2 := 9,
    inputs := [.engine] }

/-- A running kernel over the bytes m, the buffers at src and dst, len elements. -/
def kernel (c src dst len : Word) (m : Memory) : State :=
  { base with
    cmd := c, latched := ⟨c, src, dst, len, 0, 0⟩, status := statusStarted, res0 := 7, res1 := 8, res2 := 9, mem := m,
    inputs := [.engine] }

/-- The answer of a step as STATUS, RES0, RES1, RES2. -/
def results : Host.Outcome State Fault Refusal → Option (Word × Word × Word × Word)
  | .next t => some (statusWord t.status, t.res0, t.res1, t.res2)
  | .fault _ => none
  | .refused _ => none

/-- n bytes of memory from a after a step. -/
def bytesAfter (a n : Nat) : Host.Outcome State Fault Refusal → Option Nat
  | .next t => some (memRead t.mem a n)
  | .fault _ => none
  | .refused _ => none

/-! ### Encoding: words written out from R55 and R57, bits 31 to 0 -/

theorem test_decode_rshr : decode 0b00000000000000000000000000000001#32 = .ok .rshr := by decide
theorem test_decode_satcvt_q16_15 :
    decode 0b00000000000000000000001000000010#32 = .ok (.satcvt .q16_15) := by decide
theorem test_decode_mulq31 : decode 0b00000000000000000000000000000011#32 = .ok .mulq31 := by decide
theorem test_decode_rredSig : decode 0b00000000000000000000000000000100#32 = .ok .rredSig := by decide
theorem test_decode_rredTanh : decode 0b00000000000000000000000000000101#32 = .ok .rredTanh := by decide
theorem test_decode_poly : decode 0b00000000000000000000000000000110#32 = .ok .poly := by decide
theorem test_decode_antilog : decode 0b00000000000000000000000000000111#32 = .ok .antilog := by decide
theorem test_decode_recip : decode 0b00000000000000000000000000001000#32 = .ok .recip := by decide
/-- SIG1.Q15 = 0x00000109 (R61). -/
theorem test_decode_sig1_q15 : decode 0b00000000000000000000000100001001#32 = .ok (.sig1 .q15) := by decide
theorem test_decode_tanh1_q7 : decode 0b00000000000000000000000000001010#32 = .ok (.tanh1 .q7) := by decide
theorem test_decode_vsigmoid_q15 :
    decode 0b00000000000000000000000100010000#32 = .ok (.vsigmoid .q15) := by decide
/-- VTANH.Q16_15 = 0x00000211 (R61). -/
theorem test_decode_vtanh_q16_15 :
    decode 0b00000000000000000000001000010001#32 = .ok (.vtanh .q16_15) := by decide
/-- VSOFTMAX.Q7 = 0x00000012 (R61). -/
theorem test_decode_vsoftmax_q7 : decode 0b00000000000000000000000000010010#32 = .ok (.vsoftmax .q7) := by decide

/-- The rejected words of 95_test_vectors.md, "Error outcomes": gaps, reserved bits, OFMT on RSHR. -/
theorem test_decode_illegal :
    decode 0x00000000 = .illegal ∧ decode 0x00000013 = .illegal ∧ decode 0x0000003F = .illegal ∧
      decode 0x0000000B = .illegal ∧ decode 0x0000000F = .illegal ∧ decode 0x00000041 = .illegal ∧
      decode 0x00000401 = .illegal ∧ decode 0x80000008 = .illegal ∧ decode 0x00000101 = .illegal ∧
      decode 0x00000301 = .illegal := by decide

/-- OFMT = 3 on an operation with a format (R58). -/
theorem test_decode_fmt : decode 0x00000309 = .fmt ∧ decode 0x00000310 = .fmt := by decide

/-- The bridge to the opcode table reads the row of VSIGMOID. -/
theorem test_decodeTableWord : decodeTableWord 32 0x00000010 = some (.vsigmoid .q7) := by decide

/-! ### Well-formedness: the reserved format is refused, each of the six commands that carry one -/

theorem test_wellFormed_refuses_satcvt : (Instr.satcvt .reserved).wellFormed = false := by decide
theorem test_wellFormed_refuses_sig1 : (Instr.sig1 .reserved).wellFormed = false := by decide
theorem test_wellFormed_refuses_tanh1 : (Instr.tanh1 .reserved).wellFormed = false := by decide
theorem test_wellFormed_refuses_vsigmoid : (Instr.vsigmoid .reserved).wellFormed = false := by decide
theorem test_wellFormed_refuses_vtanh : (Instr.vtanh .reserved).wellFormed = false := by decide
theorem test_wellFormed_refuses_vsoftmax : (Instr.vsoftmax .reserved).wellFormed = false := by decide

/-! ### Scalar commands: one step of the engine on a latched command -/

/-- R67: half-way values round toward plus infinity; RSHR(-3, 1) = -1. -/
theorem test_rshr_negative_half :
    results (step (scalar 0x01 0xFFFFFFFD 1)) = some (2, 0xFFFFFFFF, 8, 9) := by decide
/-- R67: a count of 32 is error SHAMT, and nothing is written. -/
theorem test_rshr_count_32 : results (step (scalar 0x01 5 32)) = some (0x806, 7, 8, 9) := by decide
/-- R68: 2^31 - 1 saturates to 32767 in Q0.15. -/
theorem test_satcvt_q15_saturates :
    results (step (scalar 0x102 0x7FFFFFFF 0)) = some (2, 0x7FFF, 8, 9) := by decide
/-- R68: the same value is 32768 in Q16.15. -/
theorem test_satcvt_q16_15_does_not :
    results (step (scalar 0x202 0x7FFFFFFF 0)) = some (2, 0x8000, 8, 9) := by decide
/-- R69: the one pair of operands that saturates. -/
theorem test_mulq31_saturates :
    results (step (scalar 0x03 0x80000000 0x80000000)) = some (2, 0x7FFFFFFF, 8, 9) := by decide
/-- R69: MulQ31(-1, 2^30) = 0, half-way toward plus infinity. -/
theorem test_mulq31_half : results (step (scalar 0x03 0xFFFFFFFF 0x40000000)) = some (2, 0, 8, 9) := by decide
/-- R76, corner case a = 0x80000000. -/
theorem test_rredSig_min : results (step (scalar 0x04 0x80000000 0)) = some (2, 1, 92, 0x2A8ECA00) := by decide
/-- R77, example a = 1.0. -/
theorem test_rredTanh_one : results (step (scalar 0x05 0x02000000 0)) = some (2, 0, 2, 0x71547600) := by decide
/-- R82, example a = 0.5. -/
theorem test_poly_half : results (step (scalar 0x06 0x40000000 0)) = some (2, 0x5A829A5F, 8, 9) := by decide
/-- R82: outside the fit the chain saturates. -/
theorem test_poly_negative : results (step (scalar 0x06 0x80000000 0)) = some (2, 0x7FFFFFFF, 8, 9) := by decide
/-- R83, example a = 1.0. -/
theorem test_antilog_one :
    results (step (scalar 0x07 0x02000000 0)) = some (2, 0x2F16B9A2, 0x5E2D7345, 1) := by decide
/-- R88, example a = 0.5. -/
theorem test_recip_half :
    results (step (scalar 0x08 0x40000000 0)) = some (2, 0x5554F180, 0x5AE147AE, 0x54F9096B) := by decide
/-- R92, example SIG1.Q15 of 1.0: 23955. -/
theorem test_sig1_one : results (step (scalar 0x109 0x02000000 0)) = some (2, 0x5D92F4BA, 23955, 9) := by decide
/-- R92, corner case a = -1: the reflected branch. -/
theorem test_sig1_minus_one_lsb :
    results (step (scalar 0x109 0xFFFFFFFF 0)) = some (2, 0x4000ABCC, 16385, 9) := by decide
/-- R93, example TANH1.Q15 of 1.0: 24956. -/
theorem test_tanh1_one : results (step (scalar 0x10A 0x02000000 0)) = some (2, 0x617BE304, 24956, 9) := by decide
/-- R93, corner case a = -64.0 in Q0.7. -/
theorem test_tanh1_min :
    results (step (scalar 0x0A 0x80000000 0)) = some (2, 0x8000157C, 0xFFFFFF80, 9) := by decide

/-! ### Kernels -/

/-- R95, example VSIGMOID.Q15 over (0, 1.0, -1.0, max): 16383, 23955, 8813, 32767. -/
theorem test_vsigmoid_example :
    bytesAfter 0x1100 8 (step (kernel 0x110 0x1000 0x1100 4
      [(0x1007, 0x02), (0x100B, 0xFE), (0x100C, 0xFF), (0x100D, 0xFF), (0x100E, 0xFF), (0x100F, 0x7F)])) =
      some 0x7FFF226D5D933FFF := by decide +kernel
/-- R96, example VTANH.Q7 over (1.0, -1.0, 0): 97, -97, 0. -/
theorem test_vtanh_example :
    bytesAfter 0x1100 3 (step (kernel 0x11 0x1000 0x1100 3 [(0x1003, 0x02), (0x1007, 0xFE)])) =
      some 0x009F61 := by decide
/-- R103, example VSOFTMAX.Q15 over (1.0, 2.0, 3.0): outputs 2950, 8019, 21798. -/
theorem test_vsoftmax_outputs :
    bytesAfter 0x1100 6 (step (kernel 0x112 0x1000 0x1100 3 [(0x1003, 0x02), (0x1007, 0x04), (0x100B, 0x06)])) =
      some 0x55261F530B86 := by decide +kernel
/-- R103: m, r and e_s of the same example. -/
theorem test_vsoftmax_results :
    results (step (kernel 0x112 0x1000 0x1100 3 [(0x1003, 0x02), (0x1007, 0x04), (0x100B, 0x06)])) =
      some (2, 0x06000000, 0x552632C9, 0) := by decide +kernel
/-- R106: RANGE comes before ALIAS (SRC = DST = 0x0FFC). -/
theorem test_vsigmoid_range_before_alias :
    results (step (kernel 0x110 0x0FFC 0x0FFC 3 [])) = some (0x606, 7, 8, 9) := by decide
/-- R106: LEN comes before NULL. -/
theorem test_vtanh_len_before_null : results (step (kernel 0x111 0 0x1100 0 [])) = some (0x306, 7, 8, 9) := by decide

/-! ### Host, reset, and the command word placed by withFetchWord -/

/-- From reset, the next step runs the placed word; a kernel then completes with LEN (R117). -/
theorem test_withFetchWord_kernel :
    results (step (State.reset.withFetchWord 32 0x10)) = some (0x306, 0, 0, 0) := by decide
/-- From reset, the next step runs the placed word; RSHR of 0 by 0. -/
theorem test_withFetchWord_rshr : results (step (State.reset.withFetchWord 32 0x01)) = some (2, 0, 0, 0) := by decide

/-- What the host was last answered, after a step. -/
def lastReply : Host.Outcome State Fault Refusal → Option Reply
  | .next t => t.replies.head?
  | .fault _ => none
  | .refused _ => none

/-- CONST3 reads 0xA74AD100 (R33). -/
theorem test_read_const3 :
    lastReply (step { base with inputs := [scriptRd plat .const3] }) = some (.reg 0xA74AD100) := by decide
/-- A CMD write while BUSY sets LOST, bit 3, and nothing else of STATUS (R26). -/
theorem test_lost : (results (step { scalar 0x07 0 0 with inputs := [scriptCmd plat .rshr] })).map (·.1) = some 9 := by
  decide
/-- Two bytes read little-endian (R41). -/
theorem test_read_window :
    lastReply (step { base with mem := [(0x1100, 0xFF), (0x1101, 0x3F)], inputs := [scriptMr 0x1100 2] }) =
      some (.mem 2 0x3FFF) := by decide
/-- Why a step was refused. -/
def refusal : Host.Outcome State Fault Refusal → Option Refusal
  | .next _ => none
  | .fault _ => none
  | .refused r => some r

/-- A register access of two bytes is refused (R19). -/
theorem test_narrow_register_access :
    refusal (step { base with inputs := [scriptMr 0x40000000 2] }) = some .registerAccess := by decide
/-- An access of 0 bytes: refused strictly inside the register block, a no-op at REG_BASE (DESIGN CHOICE, log 21). -/
theorem test_access_of_no_byte :
    refusal (step { base with inputs := [scriptMw 0x40000001 0 0] }) = some .registerAccess ∧
      targetOf plat 0x40000000 0 = .window ∧ hostWriteWindow base 0x40000000 0 0 = base :=
  ⟨by decide, by decide, rfl⟩
/-- An access outside QACT's two address spaces is refused (R42). -/
theorem test_outside_access :
    refusal (step { base with inputs := [scriptMw 0x00003000 1 0] }) = some .outsideQact := by decide

/-- The encoding of a `call` is its three register writes (R62, program P1). -/
theorem test_call_encoding :
    scriptEncoding plat (scriptCall plat .antilog 0x02000000 0) = [(0x14, 0x02000000), (0x18, 0), (0x00, 0x07)] := by
  decide
/-- Suffixes are required, and refused where there is no format (R61). -/
theorem test_assemble :
    assemble "VTANH.Q16_15" = some (.vtanh .q16_15) ∧ assemble "VTANH" = none ∧ assemble "MULQ31.Q7" = none ∧
      assemble "MULQ31" = some .mulq31 := by decide

/-! ### Witnesses: for every statement with hypotheses, states and operands that meet them all -/

/-- The engine's turn comes in s, with operation code op in the latched word. -/
def Runs (s : State) (op : Nat) : Prop := EngineTurn s ∧ s.latched.cmd.toNat % 64 = op

/-- A state with a schedule. -/
def sched (s : State) (es : List Event) : State := { s with inputs := es }

/-- One sigmoid element 1.0 at 0x1000, its output at 0x1100, in the format of c. -/
def oneElem (c : Word) : State := kernel c 0x1000 0x1100 1 [(0x1003, 0x02)]

/-- A step from s that answers a next state. -/
def Answers (s : State) : Prop := ∃ t, step s = .next t

/-- The step that starts a command on the example platform. -/
theorem starts_step : step (sched base [scriptWr plat .cmd 1]) = .next (startCommand base 1) :=
  step_scriptWr (s := sched base [scriptWr plat .cmd 1]) (by decide) rfl

theorem witness_IllegalAndFmtWordsOnlyReport :
    (EngineTurn (scalar 0x00 0 0) ∧ decode (scalar 0x00 0 0).latched.cmd = .illegal) ∧
      EngineTurn (scalar 0x309 0 0) ∧ decode (scalar 0x309 0 0).latched.cmd = .fmt :=
  ⟨⟨⟨rfl, _, rfl⟩, by decide⟩, ⟨rfl, _, rfl⟩, by decide⟩

theorem witness_AssemblerFollowsTable : ("VTANH.Q16_15", Instr.vtanh .q16_15, 0x211) ∈ asmTable := by decide

theorem witness_RshrRoundsOrReportsShamt :
    Runs (scalar 0x01 5 0) 0x01 ∧ Runs (scalar 0x301 5 0) 0x01 ∧ argB (scalar 0x01 5 0) = 0 ∧
      (0 < argB (scalar 0x01 5 31) ∧ argB (scalar 0x01 5 31) ≤ 31) ∧
      ¬ (0 ≤ argB (scalar 0x01 5 32) ∧ argB (scalar 0x01 5 32) ≤ 31) ∧
      ¬ (0 ≤ argB (scalar 0x01 5 0xFFFFFFFF) ∧ argB (scalar 0x01 5 0xFFFFFFFF) ≤ 31) :=
  ⟨⟨⟨rfl, _, rfl⟩, rfl⟩, ⟨⟨rfl, _, rfl⟩, rfl⟩, by decide, by decide, by decide, by decide⟩

theorem witness_SatcvtConverts :
    Runs (scalar 0x002 5 0) 0x02 ∧ Runs (scalar 0x102 5 0) 0x02 ∧ Runs (scalar 0x202 5 0) 0x02 ∧
      Runs (scalar 0x302 5 0) 0x02 ∧ Runs (scalar 0x402 5 0) 0x02 ∧ OutFmt.q16_15.wellFormed = true :=
  ⟨⟨⟨rfl, _, rfl⟩, rfl⟩, ⟨⟨rfl, _, rfl⟩, rfl⟩, ⟨⟨rfl, _, rfl⟩, rfl⟩, ⟨⟨rfl, _, rfl⟩, rfl⟩,
    ⟨⟨rfl, _, rfl⟩, rfl⟩, rfl⟩

theorem witness_Mulq31Multiplies :
    Runs (scalar 0x03 0x80000000 0x80000000) 0x03 ∧
      (argA (scalar 0x03 0x80000000 0x80000000) = -2147483648 ∧
        argB (scalar 0x03 0x80000000 0x80000000) = -2147483648) ∧
      ¬ (argA (scalar 0x03 0x80000000 0x80000001) = -2147483648 ∧
        argB (scalar 0x03 0x80000000 0x80000001) = -2147483648) :=
  ⟨⟨⟨rfl, _, rfl⟩, rfl⟩, by decide, by decide⟩

theorem witness_RredSigReduces : Runs (scalar 0x04 1 0) 0x04 := ⟨⟨rfl, _, rfl⟩, rfl⟩
theorem witness_RredTanhReduces : Runs (scalar 0x05 1 0) 0x05 := ⟨⟨rfl, _, rfl⟩, rfl⟩
theorem witness_ReducedPairRanges :
    (∃ t, exec .rredSig (scalar 0x04 0x80000000 0) = .next t) ∧
      ∃ t, exec .rredTanh (scalar 0x05 0x7FFFFFFF 0) = .next t := ⟨⟨_, rfl⟩, _, rfl⟩
theorem witness_PolyEvaluatesHorner : Runs (scalar 0x06 1 0) 0x06 := ⟨⟨rfl, _, rfl⟩, rfl⟩
theorem witness_PolyNeverSaturatesOnUnit :
    0 ≤ argA (scalar 0x06 0 0) ∧ 0 ≤ argA (scalar 0x06 0x7FFFFFFF 0) := by decide
theorem witness_AntilogComposes : Runs (scalar 0x07 1 0) 0x07 := ⟨⟨rfl, _, rfl⟩, rfl⟩
theorem witness_AntilogRangeAndEvenness :
    (∃ t, exec .antilog (scalar 0x07 0xD4000000 0) = .next t ∧ 31 ≤ t.res2.toInt) ∧
      argA (scalar 0x07 0xFFFFFFFF 0) = -1 ∧
      ((0x02000000 : Word).toInt = -argA (scalar 0x07 0xFE000000 0)) ∧
      ∃ t u, exec .antilog (scalar 0x07 0xFE000000 0) = .next t ∧
        exec .antilog (withOpa (scalar 0x07 0xFE000000 0) 0x02000000) = .next u :=
  ⟨⟨_, rfl, by decide⟩, by decide, by decide, _, _, rfl, rfl⟩
theorem witness_RecipRefinesTwice : Runs (scalar 0x08 1 0) 0x08 := ⟨⟨rfl, _, rfl⟩, rfl⟩
theorem witness_RecipNeverSaturatesOnUnit :
    0 ≤ argA (scalar 0x08 0 0) ∧ 0 ≤ argA (scalar 0x08 0x7FFFFFFF 0) := by decide
theorem witness_Sig1Composes : Runs (scalar 0x109 1 0) 0x09 ∧ OutFmt.q15.wellFormed = true :=
  ⟨⟨⟨rfl, _, rfl⟩, rfl⟩, rfl⟩
theorem witness_Tanh1Composes : Runs (scalar 0x10A 1 0) 0x0A ∧ OutFmt.q15.wellFormed = true :=
  ⟨⟨⟨rfl, _, rfl⟩, rfl⟩, rfl⟩
theorem witness_ActivationRanges :
    OutFmt.q7.wellFormed = true ∧ (∃ t, exec (.sig1 .q7) (scalar 0x09 0x80000000 0) = .next t) ∧
      ∃ t, exec (.tanh1 .q7) (scalar 0x0A 0x80000000 0) = .next t := ⟨rfl, ⟨_, rfl⟩, _, rfl⟩
theorem witness_ActivationSymmetry :
    (0xFE000000 : Word).toInt = -argA (scalar 0x09 0x02000000 0) ∧ 0 < argA (scalar 0x09 0x02000000 0) ∧
      (∃ t u, exec (.sig1 .q7) (scalar 0x09 0x02000000 0) = .next t ∧
        exec (.sig1 .q7) (withOpa (scalar 0x09 0x02000000 0) 0xFE000000) = .next u) ∧
      ∃ t u, exec (.tanh1 .q7) (scalar 0x0A 0x02000000 0) = .next t ∧
        exec (.tanh1 .q7) (withOpa (scalar 0x0A 0x02000000 0) 0xFE000000) = .next u :=
  ⟨by decide, by decide, ⟨_, _, rfl, rfl⟩, _, _, rfl, rfl⟩
theorem witness_CommandsReadOnlyTheirOperands :
    ((Instr.tanh1 .q7).opcode < 0x10 ∧ ∃ t, exec (.tanh1 .q7) (scalar 0x0A 1 0) = .next t) ∧
      0x10 ≤ (Instr.vsigmoid .q15).opcode ∧ ∃ t, exec (.vsigmoid .q15) (oneElem 0x110) = .next t :=
  ⟨⟨by decide, _, rfl⟩, by decide, _, rfl⟩

/-- The errors of the entry checks, each at a boundary value: N = 0, SRC = 0, DST = 0x1101, OUT one byte above the
window, IN touching OUT. -/
theorem witness_KernelEntryChecks :
    IsKernel (.vsigmoid .reserved) .reserved ∧ IsKernel (.vtanh .q15) .q15 ∧ OutFmt.q15 ≠ .reserved ∧
      (kernel 0x111 0x1000 0x1100 0 []).disturbed = false ∧
      entryError (kernel 0x111 0x1000 0x1100 0 []) 2 = .len ∧
      entryError (kernel 0x111 0 0x1100 1 []) 2 = .null ∧
      entryError (kernel 0x111 0x1000 0x1101 1 []) 2 = .align ∧
      entryError (kernel 0x111 0x1000 0x1FFE 2 []) 2 = .range ∧
      entryError (kernel 0x111 0x1000 0x1002 1 []) 2 = .aliased ∧
      entryError (kernel 0x111 0x1000 0x1004 1 []) 2 = .noError :=
  ⟨.inl rfl, .inr (.inl rfl), by decide, rfl, by decide, by decide, by decide, by decide, by decide, by decide⟩

theorem witness_VsigmoidMapsSig1 :
    Runs (oneElem 0x110) 0x10 ∧ Ready (oneElem 0x110) .q15 ∧ 0 < (argN (oneElem 0x110)).toNat ∧
      OutsideOut (oneElem 0x110) 2 0x10FF ∧ OutsideOut (oneElem 0x110) 2 0x1102 :=
  ⟨⟨⟨rfl, _, rfl⟩, rfl⟩, ⟨rfl, by decide, rfl, by decide⟩, by decide, .inl (by decide), .inr (by decide)⟩
theorem witness_VtanhMapsTanh1 : Runs (oneElem 0x011) 0x11 ∧ Ready (oneElem 0x011) .q7 :=
  ⟨⟨⟨rfl, _, rfl⟩, rfl⟩, rfl, by decide, rfl, by decide⟩
/-- One element has es = -1; four equal ones have S = 4 * (2^31 - 1), B = 33 and es = 1 (R99). -/
theorem witness_VsoftmaxComputes :
    (Runs (oneElem 0x212) 0x12 ∧ Ready (oneElem 0x212) .q16_15 ∧
      (results (step (oneElem 0x212))).map (·.2.2.2) = some 0xFFFFFFFF) ∧
      Runs (kernel 0x112 0x1000 0x1100 4 []) 0x12 ∧ Ready (kernel 0x112 0x1000 0x1100 4 []) .q15 ∧
      (results (step (kernel 0x112 0x1000 0x1100 4 []))).map (·.2.2.2) = some 1 :=
  ⟨⟨⟨⟨rfl, _, rfl⟩, rfl⟩, ⟨rfl, by decide, rfl, by decide⟩, by decide +kernel⟩, ⟨⟨rfl, _, rfl⟩, rfl⟩,
    ⟨rfl, by decide, rfl, by decide⟩, by decide +kernel⟩
theorem witness_SoftmaxOutputsNonnegative :
    Ready (oneElem 0x12) .q7 ∧ ∃ t, exec (.vsoftmax .q7) (oneElem 0x12) = .next t :=
  ⟨⟨rfl, by decide, rfl, by decide⟩, _, rfl⟩
theorem witness_SoftmaxShiftInvariant :
    Ready (oneElem 0x12) .q7 ∧ memWf [] = true ∧
      inElem { oneElem 0x12 with mem := [] } 0 = inElem (oneElem 0x12) 0 + -33554432 ∧
      argN (oneElem 0x12) = 1 ∧ (∃ t, exec (.vsoftmax .q7) (oneElem 0x12) = .next t) ∧
      ∃ u, exec (.vsoftmax .q7) { oneElem 0x12 with mem := [] } = .next u :=
  ⟨⟨rfl, by decide, rfl, by decide⟩, rfl, by decide, by decide, ⟨_, rfl⟩, _, rfl⟩

/-- Two memories that agree on IN = 0x1000 to 0x1003 and differ at 0x1004. -/
theorem witness_EngineReadsOnlyIn :
    IsKernel (.vtanh .q7) .q7 ∧ (oneElem 0x11).disturbed = false ∧ memWf (oneElem 0x11).mem = true ∧
      memWf [(0x1003, 0x02), (0x1004, 0x55)] = true ∧
      (∀ b, argSrc (oneElem 0x11) ≤ b → b < argSrc (oneElem 0x11) + 4 * (argN (oneElem 0x11)).toNat →
        readByte [(0x1003, 0x02), (0x1004, 0x55)] b = readByte (oneElem 0x11).mem b) ∧
      (∃ t, exec (.vtanh .q7) (oneElem 0x11) = .next t) ∧
      ∃ u, exec (.vtanh .q7) { oneElem 0x11 with mem := [(0x1003, 0x02), (0x1004, 0x55)] } = .next u := by
  refine ⟨.inr (.inl rfl), rfl, by decide, by decide, fun b h1 h2 => ?_, ⟨_, rfl⟩, _, rfl⟩
  have e1 : argSrc (oneElem 0x11) = 0x1000 := rfl
  have e2 : (argN (oneElem 0x11)).toNat = 1 := rfl
  rw [e1] at h1; rw [e1, e2] at h2
  interval_cases b <;> rfl

theorem witness_EngineWritesOnlyOut :
    memWf (oneElem 0x11).mem = true ∧ Instr.poly.opcode < 0x10 ∧
      (∃ t, exec .poly (oneElem 0x11) = .next t) ∧
      (∃ t, exec (.vtanh .q7) (kernel 0x11 0 0 0 []) = .next t ∧ t.status.code ≠ .noError) ∧
      (kernel 0x11 0 0 0 []).disturbed = false ∧
      IsKernel (.vtanh .q7) .q7 ∧ OutsideOut (oneElem 0x11) 1 0x1101 :=
  ⟨by decide, by decide, ⟨_, rfl⟩, ⟨_, rfl, by decide⟩, rfl, .inr (.inl rfl), .inr (by decide)⟩
theorem witness_DisturbedKernelCompletes :
    { oneElem 0x112 with disturbed := true }.disturbed = true ∧ OutFmt.q15.wellFormed = true ∧
      memWf { oneElem 0x112 with disturbed := true }.mem = true ∧
      entryError { oneElem 0x112 with disturbed := true } (elemBytes .q15) = .noError :=
  ⟨rfl, rfl, by decide, by decide⟩

/-- A kernel whose DST is misaligned, and whose byte 0x1101 the host has written. -/
def disturbedFailure : State := { kernel 0x111 0x1000 0x1101 1 [(0x1101, 5)] with disturbed := true }

/-- A disturbed kernel that completes, and one that fails; the first and the last byte of its OUT, and of the
window. -/
theorem witness_DisturbedOutIsAnyValue :
    IsKernel (.vtanh .q15) .q15 ∧ OutFmt.q15.wellFormed = true ∧ disturbedFailure.disturbed = true ∧
      memWf disturbedFailure.mem = true ∧ entryError disturbedFailure 2 = .align ∧
      entryError { oneElem 0x111 with disturbed := true } 2 = .noError ∧
      ¬ OutsideOut disturbedFailure 2 0x1101 ∧ ¬ OutsideOut disturbedFailure 2 0x1102 ∧
      ¬ OutsideOut (kernel 0x111 0x1000 0xFFF 1 []) 2 0x1000 ∧ plat.memBase ≤ 0x1000 ∧
      ¬ OutsideOut (kernel 0x111 0x1000 0x1FFF 1 []) 2 0x1FFF ∧ 0x1FFF < plat.memBase + plat.memSize ∧
      OutsideOut disturbedFailure 2 0x1100 ∧ OutsideOut disturbedFailure 2 0x1103 ∧
      0xFFF < plat.memBase ∧ plat.memBase + plat.memSize ≤ 0x2000 :=
  ⟨.inr (.inl rfl), rfl, rfl, by decide, by decide, by decide, by unfold OutsideOut; decide,
    by unfold OutsideOut; decide, by unfold OutsideOut; decide, by decide, by unfold OutsideOut; decide, by decide,
    .inl (by decide), .inr (by decide), by decide, by decide⟩

/-- The same kernel reports ALIGN (R105), and its byte 0x1101 is then the first draw after the six of reset (R51). -/
theorem test_disturbed_failure_frees_out :
    (∃ t, step disturbedFailure = .next t ∧ t.status.code = .align ∧ t.res0 = 7) ∧
      ∃ t, step disturbedFailure = .next t ∧ readByte t.mem 0x1101 = Config.freeByte 6 :=
  ⟨⟨_, rfl, rfl, rfl⟩, _, rfl, (readByte_drawSpan_inside (s := disturbedFailure) (sp := ⟨0x1101, 2⟩) (b := 0x1101)
    (by decide) (by decide) (by decide)).2.2⟩

theorem witness_StepRunsDecodedCommand :
    (EngineTurn (scalar 0x05 1 0) ∧ decode (scalar 0x05 1 0).latched.cmd = .ok .rredTanh) ∧
      (sched (oneElem 0x12) []).status.busy = true ∧ (sched (oneElem 0x12) []).inputs = [] ∧
      decode (sched (oneElem 0x12) []).latched.cmd = .ok (.vsoftmax .q7) ∧
      base.status.busy = false ∧ (sched base [.engine]).inputs = .engine :: [] ∧ base.inputs = [] :=
  ⟨⟨⟨rfl, _, rfl⟩, by decide⟩, rfl, rfl, by decide, rfl, rfl, rfl⟩
theorem witness_PlacedWordRunsNext : decodeTableWord 32 0x211 = some (.vtanh .q16_15) := by decide

/-- Every error code is some running command's (R105). -/
theorem witness_FirstErrorIsReported :
    EngineTurn (scalar 0x06 0 0) ∧ reportedError (scalar 0x06 0 0) = .noError ∧
      reportedError (scalar 0x341 0 0) = .illegal ∧ reportedError (oneElem 0x310) = .fmt ∧
      reportedError (scalar 0x01 0 32) = .shamt ∧ reportedError (kernel 0x12 0 0 0 []) = .len ∧
      reportedError (kernel 0x12 0 0 1 []) = .null ∧ reportedError (kernel 0x12 0x1002 0x1002 1 []) = .align ∧
      reportedError (kernel 0x12 0xFFC 0xFFC 1 []) = .range ∧
      reportedError (kernel 0x12 0x1000 0x1003 1 []) = .aliased :=
  ⟨⟨rfl, _, rfl⟩, by decide, by decide, by decide, by decide, by decide, by decide, by decide, by decide,
    by decide⟩
theorem witness_CompletionNeverPartial :
    EngineTurn (scalar 0x01 5 32) ∧ ∃ t, step (scalar 0x01 5 32) = .next t ∧ t.status.code ≠ .noError :=
  ⟨⟨rfl, _, rfl⟩, _, rfl, by decide⟩
theorem witness_CommandFrameHolds : ∃ t, exec (.vsoftmax .q7) (oneElem 0x12) = .next t := ⟨_, rfl⟩

/-- A start, a completion and a reset, each as a step. -/
theorem witness_BusyRisesAtStartFallsAtCompletion :
    (plat.Admissible ∧ base.status.busy = false ∧
      ∃ t, step (sched base [scriptWr plat .cmd 1]) = .next t ∧ Starts (sched base [scriptWr plat .cmd 1]) t) ∧
      EngineTurn (scalar 0x03 1 1) ∧ ∃ t, step (scalar 0x03 1 1) = .next t ∧ Completes (scalar 0x03 1 1) t :=
  ⟨⟨by decide, rfl, _, starts_step, rfl, rfl⟩, ⟨rfl, _, rfl⟩, _, rfl, rfl, rfl, fun ⟨_, h⟩ => by cases h⟩
theorem witness_DoneErrCodeChangeOnlyAtStartAndCompletion :
    (∃ t, step (sched base [scriptWr plat .cmd 1]) = .next t ∧ Starts (sched base [scriptWr plat .cmd 1]) t) ∧
      (Answers (sched (scalar 0x03 1 1) [.reset]) ∧ Resets (sched (scalar 0x03 1 1) [.reset])) ∧
      (∃ t, step (scalar 0x03 1 1) = .next t ∧ Completes (scalar 0x03 1 1) t) ∧
      ∃ t, step base = .next t ∧ ¬ Starts base t ∧ ¬ Resets base ∧ ¬ Completes base t :=
  ⟨⟨_, starts_step, rfl, rfl⟩, ⟨⟨_, rfl⟩, _, rfl⟩, ⟨_, rfl, rfl, rfl, fun ⟨_, h⟩ => by cases h⟩,
    _, rfl, (fun h => by cases h.2), (fun ⟨_, h⟩ => by cases h), fun h => by cases h.1⟩
theorem witness_LostIsStickyUntilStart :
    (plat.Admissible ∧ (scalar 0x03 1 1).status.busy = true ∧
      (sched (scalar 0x03 1 1) [scriptWr plat .cmd 1]).inputs =
        scriptWr (sched (scalar 0x03 1 1) [scriptWr plat .cmd 1]).platform .cmd 1 :: []) ∧
      (∃ t, step (sched base [scriptWr plat .cmd 1]) = .next t ∧ base.status.busy = false ∧ t.status.busy = true) ∧
      (∃ t, step (scalar 0x03 1 1) = .next t ∧ Completes (scalar 0x03 1 1) t) ∧
      ∃ t, step base = .next t ∧ ¬ Starts base t ∧ ¬ Resets base ∧ ¬ LosesCommand base :=
  ⟨⟨by decide, rfl, rfl⟩, ⟨_, starts_step, rfl, rfl⟩, ⟨_, rfl, rfl, rfl, fun ⟨_, h⟩ => by cases h⟩,
    _, rfl, (fun h => by cases h.2), (fun ⟨_, h⟩ => by cases h), fun h => by cases h.1⟩
theorem witness_ResultsChangeOnlyAtSuccess :
    (∃ t, step (scalar 0x03 1 1) = .next t ∧ ¬ Resets (scalar 0x03 1 1)) ∧
      (∃ t, exec (.vtanh .q7) (oneElem 0x11) = .next t) ∧ resCount (.vtanh .q7) < 1 ∧ resCount .poly < 2 ∧
      resCount (.sig1 .q7) < 3 :=
  ⟨⟨_, rfl, fun ⟨_, h⟩ => by cases h⟩, ⟨_, rfl⟩, by decide, by decide, by decide⟩

/-- The register block's ends and the places where its parts meet. -/
theorem witness_RegisterBlockReads :
    AtOffset (sched base [scriptRd plat .cmd]) 0x40000000 0x00 ∧ AtOffset base 0x400000FC 0xFC ∧
      (0x00 ≠ 0x04) ∧ (sched base [scriptRd plat .cmd]).inputs = .host (.read 0x40000000 4) :: [] :=
  ⟨⟨by decide, by decide, by decide, by decide⟩, ⟨by decide, by decide, by decide, by decide⟩, by decide, by decide⟩
theorem witness_StatusReadsItsFields :
    AtOffset (sched base [scriptRd plat .status]) 0x40000004 0x04 ∧
      (sched base [scriptRd plat .status]).inputs = .host (.read 0x40000004 4) :: [] :=
  ⟨⟨by decide, by decide, by decide, by decide⟩, by decide⟩
theorem witness_RegisterBlockWrites :
    AtOffset (sched base [scriptWr plat .opb 7]) 0x40000018 0x18 ∧ AtOffset base 0x40000000 0x00 ∧
      AtOffset base 0x4000001C 0x1C ∧
      (sched base [scriptWr plat .opb 7]).inputs = .host (.write 0x40000018 4 7) :: [] :=
  ⟨⟨by decide, by decide, by decide, by decide⟩, ⟨by decide, by decide, by decide, by decide⟩,
    ⟨by decide, by decide, by decide, by decide⟩, by decide⟩
theorem witness_ConstantsAndReservedAreFixed :
    AtOffset (sched base [scriptWr plat .const0 7]) 0x40000040 0x40 ∧ AtOffset base 0x40000028 0x28 ∧
      AtOffset base 0x4000005C 0x5C ∧ AtOffset base 0x40000060 0x60 ∧
      (sched base [scriptWr plat .const0 7]).inputs = .host (.write 0x40000040 4 7) :: [] ∧
      (sched base [scriptRd plat .const0]).inputs = .host (.read 0x40000040 4) :: [] :=
  ⟨⟨by decide, by decide, by decide, by decide⟩, ⟨by decide, by decide, by decide, by decide⟩,
    ⟨by decide, by decide, by decide, by decide⟩, ⟨by decide, by decide, by decide, by decide⟩, by decide, by decide⟩

/-- Two bytes of a register; one byte just below and just above the window 0x1000 to 0x1FFF. -/
theorem witness_UnlawfulAccessRefused :
    ((0x40000000 : Word).toNat < plat.regBase + 256 ∧ plat.regBase < (0x40000000 : Word).toNat + 2 ∧ (2 : Nat) ≠ 4) ∧
      (¬ ((0xFFF : Word).toNat < plat.regBase + 256 ∧ plat.regBase < (0xFFF : Word).toNat + 1) ∧
        ¬ (plat.memBase ≤ (0xFFF : Word).toNat ∧ (0xFFF : Word).toNat + 1 ≤ plat.memBase + plat.memSize)) ∧
      ¬ (plat.memBase ≤ (0x2000 : Word).toNat ∧ (0x2000 : Word).toNat + 1 ≤ plat.memBase + plat.memSize) ∧
      (sched base [scriptMr 0xFFF 1]).inputs = .host (.read 0xFFF 1) :: [] := by decide
theorem witness_LawfulStepNeverStops :
    LawfulNext (sched base [scriptRd plat .res2]) ∧ LawfulNext (sched base [scriptMw 0x1FFF 1 5]) := by
  constructor <;> (intro e he; cases he; constructor <;> decide)

/-- The window's first and last byte; the running command's IN is 0x1000 to 0x1003, its OUT 0x1100 to 0x1101. -/
theorem witness_HostWindowWrite :
    AtWindow (sched (oneElem 0x112) [scriptMw 0x1000 1 5]) 0x1000 1 ∧ AtWindow base 0x1FFF 1 ∧
      memWf (oneElem 0x112).mem = true ∧
      (sched (oneElem 0x112) [scriptMw 0x1000 1 5]).inputs = .host (.write 0x1000 1 5) :: [] ∧
      RunningInByte (oneElem 0x112) 0x1003 ∧ RunningOutByte (oneElem 0x112) 0x1101 :=
  ⟨⟨by decide, by decide, by decide, by decide⟩, ⟨by decide, by decide, by decide, by decide⟩, by decide, rfl,
    ⟨rfl, .vsoftmax .q15, .q15, by decide, .inr (.inr rfl), by decide, by decide⟩,
    rfl, .vsoftmax .q15, .q15, by decide, .inr (.inr rfl), by decide, by decide⟩
theorem witness_HostWindowRead :
    AtWindow (sched (oneElem 0x112) [scriptMr 0x1100 4]) 0x1100 4 ∧
      (sched (oneElem 0x112) [scriptMr 0x1100 4]).inputs = .host (.read 0x1100 4) :: [] ∧
      RunningOutByte (oneElem 0x112) 0x1100 ∧ ¬ RunningOutByte base 0x1102 :=
  ⟨⟨by decide, by decide, by decide, by decide⟩, rfl,
    ⟨rfl, .vsoftmax .q15, .q15, by decide, .inr (.inr rfl), by decide, by decide⟩, fun h => by cases h.1⟩
theorem witness_ResetClearsRegistersKeepsWindow :
    (sched (oneElem 0x112) [.reset]).inputs = .reset :: [] ∧ memWf (oneElem 0x112).mem = true ∧
      ¬ RunningOutByte base 0x1100 := ⟨rfl, by decide, fun h => by cases h.1⟩
theorem witness_ResetLeavesAbandonedOutFree :
    (sched (oneElem 0x112) [.reset]).inputs = .reset :: [] ∧ memWf (oneElem 0x112).mem = true ∧
      RunningOutByte (oneElem 0x112) 0x1100 ∧ plat.memBase ≤ 0x1100 ∧ 0x1100 < plat.memBase + plat.memSize :=
  ⟨rfl, by decide, ⟨rfl, .vsoftmax .q15, .q15, by decide, .inr (.inr rfl), by decide, by decide⟩, by decide,
    by decide⟩
theorem witness_ResetStateReadsZero : regOffset .res2 < 0x40 := by decide

/-- A state in the middle of a run: a kernel is running, the input is in the window, the engine's turn comes next. -/
theorem witness_StepKeepsInvariant :
    Inv (sched (oneElem 0x112) [.engine, .reset]) ∧ Answers (sched (oneElem 0x112) [.engine, .reset]) :=
  ⟨⟨by decide, ⟨rfl, fun _ => ⟨rfl, rfl, rfl⟩⟩, (fun h => by cases h), by decide, by decide⟩, _, rfl⟩
theorem witness_ParametersAndConstantsNeverChange : Answers (oneElem 0x112) ∧ 0x40 ≤ 0x5C := ⟨⟨_, rfl⟩, by decide⟩
theorem witness_OperandWriteWhileBusyCommutes :
    plat.Admissible ∧ (oneElem 0x112).status.busy = true ∧ Reg.len ∈ [Reg.src, .dst, .len, .opa, .opb] := by decide
theorem witness_StartedCommandCompletes :
    (oneElem 0x112).status.busy = true ∧
      ∀ e ∈ (sched (oneElem 0x112) [scriptPoll plat, .engine]).inputs, e ≠ .reset ∧ LawfulEvent plat e := by
  refine ⟨rfl, fun e he => ?_⟩
  rcases List.mem_cons.mp he with rfl | he
  · exact ⟨by decide, by decide, by decide⟩
  · rcases List.mem_cons.mp he with rfl | he
    · exact ⟨by decide, trivial⟩
    · cases he

/-- A poll, the engine's turn and an operand write between the start and the read. -/
theorem witness_PollAfterStartNeverStale :
    plat.Admissible ∧ base.status.busy = false ∧
      ∀ e ∈ [scriptPoll plat, .engine, scriptWr plat .opa 5],
        LawfulEvent base.platform e ∧ e ≠ .reset ∧ ¬ WritesCmd base.platform e := by
  refine ⟨by decide, rfl, fun e he => ?_⟩
  simp only [List.mem_cons, List.not_mem_nil, or_false] at he
  rcases he with rfl | rfl | rfl
  · exact ⟨⟨by decide, by decide⟩, by decide, fun ⟨_, _, h, _⟩ => by cases h⟩
  · exact ⟨trivial, by decide, fun ⟨_, _, h, _⟩ => by cases h⟩
  · refine ⟨⟨by decide, by decide⟩, by decide, fun ⟨a, v, h, ha⟩ => ?_⟩
    injection h with h
    injection h with h
    subst h
    exact absurd ha (by decide)

end Sys2Proof.Tests
end

section
/-! PROOFS. The register block, family 10_state.md: which steps change STATUS (R22 to R27) and RES0 to RES2 (R32),
and the constants and reserved offsets (R33, R34). -/

namespace Sys2Proof.Proofs

open Sys2Proof Sys2Proof.Machine Sys2Proof.Stated

/-! ### What a step can do to STATUS and RES0 to RES2 -/

/-- The three result registers are as they were. -/
def SameResults (s t : State) : Prop := t.res0 = s.res0 ∧ t.res1 = s.res1 ∧ t.res2 = s.res2

/-- The five kinds of step, by what they do to STATUS and the results (R23 to R27, R32, R36, R115). -/
inductive StepEffect (s t : State) : Prop where
  /-- The engine completes the running command. -/
  | completes (busy : s.status.busy = true) (turn : engineStep (turned s) = .next t)
  /-- A host write reaches CMD in IDLE. -/
  | starts (idle : s.status.busy = false)
      (write : ∃ a n v es, s.inputs = .host (.write a n v) :: es ∧ targetOf s.platform a.toNat n = .register 0x00)
      (status : t.status = statusStarted) (results : SameResults s t)
  /-- A host write reaches CMD while BUSY. -/
  | loses (write : LosesCommand s) (status : t.status = statusLost s.status) (results : SameResults s t)
  /-- Every other host access, and the engine's turn in IDLE. -/
  | keeps (status : t.status = s.status) (results : SameResults s t)
  /-- Reset. -/
  | resets (reset : Resets s) (status : t.status = Status.idle)

/-- A host write to the register block leaves the results: they are read-only (R19, R32). -/
theorem writeOffset_sameResults (s : State) (off : Nat) (v : Word) : SameResults s (writeOffset s off v) := by
  rcases writeOffset_cases s off v with h | h | h | h | h | h | ⟨-, h⟩ | ⟨-, h⟩ <;> rw [h] <;> exact ⟨rfl, rfl, rfl⟩

/-- A write to CMD (R26, R36): lost while BUSY, a start in IDLE. -/
theorem writeOffset_cmd (s : State) (v : Word) :
    writeOffset s 0x00 v = if s.status.busy then s.setStatus (statusLost s.status) else startCommand s v := rfl

/-- The effect of the engine's turn. -/
theorem stepEffect_of_engineStep {s t : State} (h : engineStep (turned s) = .next t) : StepEffect s t := by
  cases hb : s.status.busy with
  | true => exact .completes hb h
  | false =>
    have ht : engineStep (turned s) = .next (turned s) := by
      unfold engineStep; exact if_neg (by simp [turned, hb])
    rw [ht] at h
    injection h with h
    subst h
    exact .keeps rfl ⟨rfl, rfl, rfl⟩

/-- The effect of a host write to the register block. -/
theorem stepEffect_of_writeOffset {s : State} {a : Word} {n v off : Nat} {es : List Event}
    (hi : s.inputs = .host (.write a n v) :: es) (ht : targetOf s.platform (u32 a) n = .register off) :
    StepEffect s (writeOffset (s.setInputs es) off (BitVec.ofNat 32 v)) := by
  have hres : SameResults s (writeOffset (s.setInputs es) off (BitVec.ofNat 32 v)) :=
    writeOffset_sameResults (s.setInputs es) off _
  by_cases hoff : off = 0x00
  · subst hoff
    rw [writeOffset_cmd] at hres ⊢
    cases hb : s.status.busy with
    | true =>
      obtain ⟨rfl, ha, -, -⟩ := targetOf_eq_register ht
      exact .loses ⟨hb, _, es, hi, a, v, rfl, ha⟩ (by simp [hb]) hres
    | false => exact .starts hb ⟨a, n, v, es, hi, ht⟩ (by simp [hb]) hres
  · exact .keeps (writeOffset_not_cmd (s.setInputs es) hoff _).1 hres

/-- Every step has one of the five effects. -/
theorem step_effect {s t : State} (h : step s = .next t) : StepEffect s t := by
  rcases step_cases h with ⟨es, hi, h⟩ | ⟨es, a, n, off, -, -, rfl⟩ | ⟨es, a, n, -, -, rfl⟩ |
    ⟨es, a, n, v, off, hi, ht, rfl⟩ | ⟨es, a, n, v, -, -, rfl⟩ | ⟨es, hi, rfl⟩
  · have he : s.setInputs es = turned s := by
      rcases hi with ⟨hi, rfl⟩ | hi <;> simp [State.setInputs, turned, hi]
    exact stepEffect_of_engineStep (he ▸ h)
  · exact .keeps rfl ⟨rfl, rfl, rfl⟩
  · exact .keeps (by simp) (by simp [SameResults])
  · exact stepEffect_of_writeOffset hi ht
  · exact .keeps rfl ⟨rfl, rfl, rfl⟩
  · exact .resets ⟨es, hi⟩ rfl

/-! ### STATUS after a start, a completion, a reset and any other step -/

/-- Completion changes STATUS by its rule alone (R107). -/
theorem status_of_engineStep {s t : State} (hb : s.status.busy = true) (h : engineStep s = .next t) :
    t.status = statusCompleted s.status t.status.code := by
  obtain ⟨u, hu, hf⟩ := engineStep_busy hb
  rw [hu] at h
  injection h with h
  subst h
  exact hf.status

/-- A start is a host write reaching CMD, and sets STATUS to 1 (R23, R36). -/
theorem StepEffect.of_starts {s t : State} (e : StepEffect s t) (h : Starts s t) :
    t.status = statusStarted ∧ ∃ a n v es, s.inputs = .host (.write a n v) :: es ∧
      targetOf s.platform a.toNat n = .register 0x00 := by
  obtain ⟨hs, ht⟩ := h
  cases e with
  | completes busy => simp [hs] at busy
  | starts _ write status => exact ⟨status, write⟩
  | loses write => obtain ⟨busy, -⟩ := write; simp [hs] at busy
  | keeps status => simp [status, hs] at ht
  | resets _ status => simp [status, Status.idle] at ht

/-- A completion is the engine's turn in BUSY (R36, R107). -/
theorem StepEffect.of_completes {s t : State} (e : StepEffect s t) (h : Completes s t) :
    engineStep (turned s) = .next t ∧ t.status = statusCompleted s.status t.status.code := by
  obtain ⟨hs, ht, hr⟩ := h
  cases e with
  | completes busy turn => exact ⟨turn, status_of_engineStep (s := turned s) busy turn⟩
  | starts idle => simp [hs] at idle
  | loses _ status => simp [status, statusLost, hs] at ht
  | keeps status => simp [status, hs] at ht
  | resets reset => exact absurd reset hr

/-- The engine's turn in BUSY that is no reset is a completion. -/
theorem completes_of_engineStep {s t : State} (hb : s.status.busy = true) (hr : ¬ Resets s)
    (h : engineStep (turned s) = .next t) : Completes s t :=
  ⟨hb, by rw [status_of_engineStep (s := turned s) hb h]; rfl, hr⟩

/-- A reset puts STATUS to 0 (R39). -/
theorem status_of_resets {s t : State} (h : step s = .next t) (hr : Resets s) : t.status = Status.idle := by
  obtain ⟨es, hi⟩ := hr
  rw [step_reset hi] at h
  injection h with h
  subst h
  rfl

/-- A step that is no start, no completion and no reset leaves STATUS, but for LOST when a command is lost (R22,
R26). -/
theorem StepEffect.of_other {s t : State} (e : StepEffect s t) (hs : ¬ Starts s t) (hr : ¬ Resets s)
    (hc : ¬ Completes s t) : t.status = s.status ∨ LosesCommand s ∧ t.status = statusLost s.status := by
  cases e with
  | completes busy turn => exact absurd (completes_of_engineStep busy hr turn) hc
  | starts idle _ status => exact absurd ⟨idle, by rw [status]; rfl⟩ hs
  | loses write status => exact .inr ⟨write, status⟩
  | keeps status => exact .inl status
  | resets reset => exact absurd reset hr

/-- Settles O36: by the five effects of a step, only a start raises BUSY and only completion or reset lowers it. -/
theorem busyRisesAtStartFallsAtCompletion : Obligations.BusyRisesAtStartFallsAtCompletion := by
  refine ⟨rfl, fun s v es hp hb hi => ?_, fun s ⟨hb, es, hi⟩ => ?_, fun s t h => ⟨fun hs => ?_, fun hc => ?_⟩⟩
  · exact ⟨_, step_scriptWr hp hi, by simp [writeReg, hb, statusStarted]⟩
  · obtain ⟨t, ht, frame⟩ := engineStep_busy (s := s.setInputs es) hb
    exact ⟨t, (step_engine hi).trans ht, by rw [frame.status]; rfl⟩
  · exact ((step_effect h).of_starts hs).2
  · exact ((step_effect h).of_completes hc).1

/-- Settles O37: each kind of step fixes the whole of STATUS, and a lost command changes LOST alone. -/
theorem doneErrCodeChangeOnlyAtStartAndCompletion : Obligations.DoneErrCodeChangeOnlyAtStartAndCompletion := by
  refine ⟨rfl, rfl, rfl, fun s t h => ⟨fun hsr => ?_, fun hc => ?_, fun hs hr hc => ?_⟩⟩
  · rcases hsr with hs | hr
    · rw [((step_effect h).of_starts hs).1]; exact ⟨rfl, rfl, rfl⟩
    · rw [status_of_resets h hr]; exact ⟨rfl, rfl, rfl⟩
  · rw [((step_effect h).of_completes hc).2]; exact ⟨rfl, rfl⟩
  · rcases (step_effect h).of_other hs hr hc with e | ⟨-, e⟩ <;> rw [e] <;> exact ⟨rfl, rfl, rfl⟩

/-- Settles O38: completion keeps LOST by its rule, and any other step changes it only where a command is lost. -/
theorem lostIsStickyUntilStart : Obligations.LostIsStickyUntilStart := by
  have completion : ∀ s t : State, step s = .next t → Completes s t → t.status.lost = s.status.lost := by
    intro s t h hc
    rw [((step_effect h).of_completes hc).2]; rfl
  refine ⟨rfl, fun s v es hp hb hi => ?_, fun s t h hs ht => ?_, completion, fun s t h hs hr hl => ?_⟩
  · rw [step_scriptWr hp hi]
    simp [writeReg, hb, State.setInputs, State.setStatus, statusLost]
  · rw [((step_effect h).of_starts ⟨hs, ht⟩).1]; rfl
  · by_cases hc : Completes s t
    · exact completion s t h hc
    · rcases (step_effect h).of_other hs hr hc with e | ⟨lost, -⟩
      · rw [e]
      · exact absurd lost hl

/-! ### Which results a command writes -/

/-- A command that writes at most the first n of RES0, RES1, RES2, and none of them when it fails (R32, R107). -/
structure ResultFrame (n : Nat) (s t : State) : Prop where
  failed : t.status.code ≠ .noError → SameResults s t
  res0 : n < 1 → t.res0 = s.res0
  res1 : n < 2 → t.res1 = s.res1
  res2 : n < 3 → t.res2 = s.res2

/-- A command that leaves the results is in every result frame. -/
theorem SameResults.resultFrame {s t : State} (h : SameResults s t) (n : Nat) : ResultFrame n s t := by
  obtain ⟨h0, h1, h2⟩ := h
  exact ⟨fun _ => ⟨h0, h1, h2⟩, fun _ => h0, fun _ => h1, fun _ => h2⟩

/-- A command that writes nothing and completes with any code (R107). -/
theorem complete_resultFrame (n : Nat) (s : State) (c : ErrCode) : ResultFrame n s (complete s c) := by
  have same : SameResults s (complete s c) := ⟨rfl, rfl, rfl⟩
  exact same.resultFrame n

/-- A command that completes without error and leaves the results its rule does not name. -/
theorem resultFrame_success {n : Nat} {s t : State} (hc : t.status.code = .noError) (h0 : n < 1 → t.res0 = s.res0)
    (h1 : n < 2 → t.res1 = s.res1) (h2 : n < 3 → t.res2 = s.res2) : ResultFrame n s t :=
  ⟨fun hn => absurd hc hn, h0, h1, h2⟩

/-- A command that writes RES0. -/
theorem complete_res0_resultFrame (s : State) (v : Word) :
    ResultFrame 1 s (complete (s.setRes0 v) .noError) :=
  resultFrame_success rfl (by omega) (fun _ => rfl) (fun _ => rfl)

/-- A command that writes RES0 and RES1. -/
theorem complete_res01_resultFrame (s : State) (v w : Word) :
    ResultFrame 2 s (complete ((s.setRes0 v).setRes1 w) .noError) :=
  resultFrame_success rfl (by omega) (by omega) (fun _ => rfl)

/-- A command that completes without error and may write all three results. -/
theorem complete_res012_resultFrame (s t : State) : ResultFrame 3 s (complete t .noError) :=
  resultFrame_success rfl (by omega) (by omega) (by omega)

/-- A formatted operation's result frame, from that of what it runs. -/
theorem withFormat_resultFrame {n : Nat} {f : OutFmt} {s : State} {run : Layout → State}
    (hr : ∀ l, ResultFrame n s (run l)) : ResultFrame n s (withFormat f s run) := by
  rcases withFormat_cases f s run with ⟨-, h⟩ | ⟨l, -, h⟩ <;> rw [h]
  · exact complete_resultFrame n s _
  · exact hr l

/-- A kernel's result frame, from that of its body. -/
theorem runKernel_resultFrame {n : Nat} {f : OutFmt} {s : State} {body : Layout → State}
    (hb : ∀ l, ResultFrame n s (body l)) : ResultFrame n s (runKernel f s body) := by
  rcases runKernel_cases f s body with ⟨-, h⟩ | ⟨l, -, -, h⟩ | ⟨l, -, -, h⟩ <;> rw [h]
  · exact complete_resultFrame n s _
  · exact SameResults.resultFrame (by simp [SameResults]) n
  · exact hb l

/-- VSIGMOID and VTANH write no result (R94). -/
theorem mapKernel_resultFrame (g : Int → Int) (f : OutFmt) (s : State) : ResultFrame 0 s (mapKernel g f s) :=
  runKernel_resultFrame fun _ => SameResults.resultFrame (by simp [SameResults]) 0

/-- Every command writes at most the results its rule names, and none when it fails (R32, R57, R107). -/
theorem exec_resultFrame {i : Instr} {s t : State} (h : exec i s = .next t) : ResultFrame (resCount i) s t := by
  cases i <;> (injection h with h; subst h)
  case rshr =>
    split
    · exact complete_resultFrame _ s _
    · exact complete_res0_resultFrame s _
  case satcvt f => exact withFormat_resultFrame fun _ => complete_res0_resultFrame s _
  case mulq31 => exact complete_res0_resultFrame s _
  case rredSig => exact complete_res012_resultFrame s _
  case rredTanh => exact complete_res012_resultFrame s _
  case poly => exact complete_res0_resultFrame s _
  case antilog => exact complete_res012_resultFrame s _
  case recip => exact complete_res012_resultFrame s _
  case sig1 f => exact withFormat_resultFrame fun _ => complete_res01_resultFrame s _ _
  case tanh1 f => exact withFormat_resultFrame fun _ => complete_res01_resultFrame s _ _
  case vsigmoid f => exact mapKernel_resultFrame _ f s
  case vtanh f => exact mapKernel_resultFrame _ f s
  case vsoftmax f => exact runKernel_resultFrame fun _ => complete_res012_resultFrame s _

/-- The engine's turn leaves the results, or completes a decodable command without error (R32). -/
theorem engineStep_results {s t : State} (h : engineStep s = .next t) :
    SameResults s t ∨ t.status.code = .noError ∧ ∃ i, decode s.latched.cmd = .ok i := by
  rcases engineStep_cases s with ⟨-, e⟩ | ⟨-, i, hd, e⟩ | ⟨-, -, e⟩ | ⟨-, -, e⟩ <;> rw [e] at h
  case inr.inl =>
    by_cases hc : t.status.code = .noError
    · exact .inr ⟨hc, i, hd⟩
    · exact .inl ((exec_resultFrame h).failed hc)
  all_goals
    injection h with h
    subst h
    exact .inl ⟨rfl, rfl, rfl⟩

/-- Settles O39: of the five effects of a step only completion and reset touch the results, and a command stays in
its result frame. -/
theorem resultsChangeOnlyAtSuccess : Obligations.ResultsChangeOnlyAtSuccess := by
  refine ⟨rfl, rfl, rfl, fun s t h hr => ?_, fun i s t h => ?_⟩
  · cases step_effect h with
    | completes busy turn =>
      exact (engineStep_results turn).imp id fun hok => ⟨completes_of_engineStep busy hr turn, hok⟩
    | starts _ _ _ results => exact .inl results
    | loses _ _ results => exact .inl results
    | keeps _ results => exact .inl results
    | resets reset => exact absurd reset hr
  · have frame := exec_resultFrame h
    exact ⟨frame.res0, frame.res1, frame.res2⟩

/-! ### Accesses to an offset of the register block -/

/-- An aligned word of the register block is reached as the register at its offset (R19). -/
theorem targetOf_atOffset {s : State} {a : Word} {off : Nat} (h : AtOffset s a off) :
    targetOf s.platform (u32 a) 4 = .register off := by
  obtain ⟨-, ha, hal, hlt⟩ := h
  have hu : u32 a = s.platform.regBase + off := ha
  unfold targetOf
  rw [hu, if_pos ⟨by omega, by omega⟩, if_pos ⟨rfl, by omega, by omega⟩, Nat.add_sub_cancel_left]

/-- A host read of an aligned word of the register block. -/
theorem step_readOffset {s : State} {a : Word} {off : Nat} {es : List Event} (h : AtOffset s a off)
    (hi : s.inputs = .host (.read a 4) :: es) :
    step s = .next ((s.setInputs es).pushReply (.reg (readOffset (s.setInputs es) off))) := by
  rw [step_host hi]
  simp only [hostStep, State.setInputs_platform, targetOf_atOffset h]

/-- A host write of an aligned word of the register block. -/
theorem step_writeOffset {s : State} {a : Word} {off v : Nat} {es : List Event} (h : AtOffset s a off)
    (hi : s.inputs = .host (.write a 4 v) :: es) :
    step s = .next (writeOffset (s.setInputs es) off (BitVec.ofNat 32 v)) := by
  rw [step_host hi]
  simp only [hostStep, State.setInputs_platform, targetOf_atOffset h]

/-- A register is found at its own offset only (R20). -/
theorem eq_regOffset_of_regAt {off : Nat} {r : Reg} (h : regAt off = some r) : off = regOffset r := by
  unfold regAt at h
  split at h <;> cases h <;> rfl

/-- Where the map has no register it gives 0 (R34). -/
theorem offsetValue_of_regAt_none (s : State) {off : Nat} (h : regAt off = none) : offsetValue s off = 0 := by
  unfold offsetValue
  split
  case h_18 => rfl
  all_goals cases h

/-- Every offset but STATUS's reads the map's value (R20, R33, R34). -/
theorem readOffset_eq_offsetValue (s : State) {off : Nat} (h : off ≠ 0x04) :
    readOffset s off = offsetValue s off := by
  unfold readOffset
  cases hr : regAt off with
  | none => exact (offsetValue_of_regAt_none s hr).symm
  | some r =>
    have hoff := eq_regOffset_of_regAt hr
    subst hoff
    cases r
    case status => exact absurd rfl h
    all_goals rfl

/-- From offset 0x28 on only the constants are registers, and they ignore a write (R33). -/
theorem writeReg_const (s : State) (v : Word) {r : Reg} (h : 0x28 ≤ regOffset r) : writeReg s v r = s := by
  cases r with
  | const0 | const1 | const2 | const3 | const4 | const5 | const6 | const7 => rfl
  | _ => exact absurd h (by decide)

/-- A write from offset 0x28 on is ignored (R33, R34). -/
theorem writeOffset_const_or_reserved (s : State) (v : Word) {off : Nat} (h : 0x28 ≤ off) :
    writeOffset s off v = s := by
  unfold writeOffset
  cases hr : regAt off with
  | none => rfl
  | some r => exact writeReg_const s v (eq_regOffset_of_regAt hr ▸ h)

/-- Settles O40: an access at such an offset reaches the register block, where a read gives the map's value and a
write is ignored. -/
theorem constantsAndReservedAreFixed : Obligations.ConstantsAndReservedAreFixed := by
  refine fun s a off v es hat hoff => ⟨fun hi => ?_, fun hi => ?_⟩
  · rw [step_readOffset hat hi, readOffset_eq_offsetValue _ (by omega)]
    rfl
  · rw [step_writeOffset hat hi, writeOffset_const_or_reserved _ _ hoff]
    rfl

end Sys2Proof.Proofs
end

section
/-! PROOFS. The command word and the assembler, family 30_encoding.md: which words are errors and what they do (R58,
R60), and which texts name commands (R61). -/

namespace Sys2Proof.Proofs

open Sys2Proof Sys2Proof.Machine Sys2Proof.Stated

/-! ### The words that are ILLEGAL or FMT -/

/-- The OP codes with an output format (R57), whatever the format. -/
theorem formattedOp_isSome_iff {op : Nat} {f : OutFmt} :
    (formattedOp op f).isSome ↔ op ∈ [2, 9, 10, 16, 17, 18] := by
  unfold formattedOp
  split <;> simp_all

/-- The OP codes without an output format (R57). -/
theorem plainOp_isSome_iff {op : Nat} : (plainOp op).isSome ↔ op ∈ [1, 3, 4, 5, 6, 7, 8] := by
  unfold plainOp
  split <;> simp_all

/-- ILLEGAL by the fields (R60): a reserved bit, or an OP with no format that is undefined or has OFMT other than 0. -/
theorem decode_eq_illegal_iff (c : Word) : decode c = .illegal ↔
    rsvHiField c ≠ 0 ∨ rsvLoField c ≠ 0 ∨
      opField c ∉ [2, 9, 10, 16, 17, 18] ∧ (opField c ∈ [1, 3, 4, 5, 6, 7, 8] → ofmtField c ≠ 0) := by
  rw [← formattedOp_isSome_iff (f := ofmtOfCode (ofmtField c)), ← plainOp_isSome_iff]
  unfold decode
  split
  case isTrue reserved => simp; omega
  case isFalse free =>
    cases formattedOp (opField c) (ofmtOfCode (ofmtField c)) with
    | some i => by_cases h : ofmtField c = 3 <;> simp_all
    | none => cases plainOp (opField c) <;> by_cases h : ofmtField c = 0 <;> simp_all

/-- FMT by the fields (R60): no reserved bit, an OP with a format, and OFMT = 3. -/
theorem decode_eq_fmt_iff (c : Word) : decode c = .fmt ↔
    rsvHiField c = 0 ∧ rsvLoField c = 0 ∧ ofmtField c = 3 ∧ opField c ∈ [2, 9, 10, 16, 17, 18] := by
  rw [← formattedOp_isSome_iff (f := ofmtOfCode (ofmtField c))]
  unfold decode
  split
  case isTrue reserved => simp; omega
  case isFalse free =>
    cases formattedOp (opField c) (ofmtOfCode (ofmtField c)) with
    | some i => by_cases h : ofmtField c = 3 <;> simp_all
    | none => cases plainOp (opField c) <;> by_cases h : ofmtField c = 0 <;> simp_all

/-! ### The engine's turn on such a word -/

/-- A running command's scheduled turn is the engine's step, with that turn off the schedule (R36). -/
theorem step_of_engineTurn {s : State} (h : EngineTurn s) : step s = engineStep (turned s) := by
  obtain ⟨-, es, hi⟩ := h
  rw [step_engine hi]
  simp [turned, State.setInputs, hi]

/-- A latched word that is ILLEGAL completes with that code alone (R60). -/
theorem engineStep_illegal {s : State} (hb : s.status.busy = true) (hd : decode s.latched.cmd = .illegal) :
    engineStep s = .next (failed s .illegal) := by
  unfold engineStep
  rw [if_pos hb, hd]
  rfl

/-- A latched word that is FMT completes with that code alone (R60). -/
theorem engineStep_fmt {s : State} (hb : s.status.busy = true) (hd : decode s.latched.cmd = .fmt) :
    engineStep s = .next (failed s .fmt) := by
  unfold engineStep
  rw [if_pos hb, hd]
  rfl

/-- Settles O3: the bit ranges are the fields of the word, so both sides speak of the same OP and OFMT. -/
theorem illegalAndFmtWordsOnlyReport : Obligations.IllegalAndFmtWordsOnlyReport := by
  refine ⟨fun c => ?_, fun c => ?_, fun s ht => ?_⟩
  · rw [decode_eq_illegal_iff]
    have hop := opField_lt c
    simp only [ne_eq, BitVec.toNat_eq, BitVec.le_def, extract_op, extract_rsvLo, extract_ofmt, extract_rsvHi,
      BitVec.ofNat_eq_ofNat, BitVec.toNat_ofNat, List.mem_cons, List.not_mem_nil, or_false]
    omega
  · rw [decode_eq_fmt_iff]
    simp only [BitVec.toNat_eq, extract_op, extract_rsvLo, extract_ofmt, extract_rsvHi, BitVec.ofNat_eq_ofNat,
      BitVec.toNat_ofNat, List.mem_cons, List.not_mem_nil, or_false]
  · rw [step_of_engineTurn ht]
    obtain ⟨hb, -⟩ := ht
    exact ⟨engineStep_illegal (s := turned s) hb, engineStep_fmt (s := turned s) hb⟩

/-! ### The assembler -/

/-- A well-formed command is what its encoding decodes to (R58, R61). -/
theorem decode_encode {i : Instr} (h : i.wellFormed = true) : decode (encode i) = .ok i := by
  cases i with
  | satcvt f | sig1 f | tanh1 f | vsigmoid f | vtanh f | vsoftmax f =>
    cases f with
    | reserved => cases h
    | q7 | q15 | q16_15 => rfl
  | _ => rfl

/-- A command with a text is well formed (R61). -/
theorem asmCommands_wellFormed : ∀ i ∈ asmCommands, i.wellFormed = true := by decide

/-- No two commands have the same text (R61). -/
theorem asmCommands_texts_nodup : (asmCommands.map asmOf).Nodup := by decide

/-- A text names a command exactly when it is the command's text (R61). -/
theorem assemble_eq_some_iff {text : String} {i : Instr} :
    assemble text = some i ↔ i ∈ asmCommands ∧ asmOf i = some text := by
  have found : ∀ {j}, assemble text = some j → j ∈ asmCommands ∧ asmOf j = some text := fun h =>
    ⟨List.mem_of_find?_eq_some h, by simpa using List.find?_some h⟩
  refine ⟨found, fun ⟨hi, ht⟩ => ?_⟩
  cases h : assemble text with
  | none => exact absurd ht (by simpa using List.find?_eq_none.mp h i hi)
  | some j =>
    obtain ⟨hj, htj⟩ := found h
    rw [List.inj_on_of_nodup_map asmCommands_texts_nodup hj hi (htj.trans ht.symm)]

/-- What a row of the table says: a text, its command and the command's word. -/
def rowContent (row : String × Instr × Nat) : Option String × Instr × Word :=
  (some row.1, row.2.1, BitVec.ofNat 32 row.2.2)

/-- What the model says of a command: its text, the command and its encoding. -/
def commandContent (i : Instr) : Option String × Instr × Word := (asmOf i, i, encode i)

/-- The rows of the table are the commands with their texts and encodings, in the same order (R57, R61). -/
theorem asmTable_eq_asmCommands : asmTable.map rowContent = asmCommands.map commandContent := by decide

/-- What a row says of its command (R57, R61). -/
theorem of_mem_asmTable {text : String} {i : Instr} {w : Nat} (h : (text, i, w) ∈ asmTable) :
    i ∈ asmCommands ∧ asmOf i = some text ∧ encode i = BitVec.ofNat 32 w := by
  have hm := List.mem_map_of_mem (f := rowContent) h
  rw [asmTable_eq_asmCommands] at hm
  obtain ⟨j, hj, e⟩ := List.mem_map.mp hm
  simp only [commandContent, rowContent, Prod.mk.injEq] at e
  obtain ⟨ht, rfl, he⟩ := e
  exact ⟨hj, ht, he⟩

/-- A command with a text has a row (R61). -/
theorem exists_row_of_asmOf {text : String} {i : Instr} (hi : i ∈ asmCommands) (ht : asmOf i = some text) :
    ∃ w, (text, i, w) ∈ asmTable := by
  have hm := List.mem_map_of_mem (f := commandContent) hi
  rw [← asmTable_eq_asmCommands] at hm
  obtain ⟨⟨text', j, w⟩, hrow, e⟩ := List.mem_map.mp hm
  simp only [commandContent, rowContent, ht, Prod.mk.injEq, Option.some.injEq] at e
  obtain ⟨rfl, rfl, -⟩ := e
  exact ⟨w, hrow⟩

/-- Settles O4: the table lists the commands that have a text, each with its text and its encoding. -/
theorem assemblerFollowsTable : Obligations.AssemblerFollowsTable := by
  refine ⟨fun text i => ?_, fun text i w h => ?_⟩
  · rw [assemble_eq_some_iff]
    refine ⟨fun ⟨hi, ht⟩ => exists_row_of_asmOf hi ht, fun ⟨w, h⟩ => ?_⟩
    obtain ⟨hi, ht, -⟩ := of_mem_asmTable h
    exact ⟨hi, ht⟩
  · obtain ⟨hi, -, he⟩ := of_mem_asmTable h
    exact ⟨he, he ▸ decode_encode (asmCommands_wellFormed i hi)⟩

end Sys2Proof.Proofs
end

section
/-! PROOFS. The Q-format commands RSHR, SATCVT and MULQ31, family 40_qformat.md (R63 to R69), and the words that run
a command (R58, R60). -/

namespace Sys2Proof.Proofs

open Sys2Proof Sys2Proof.Machine Sys2Proof.Stated

/-! ### The words that run a command -/

/-- A latched word that is a command runs it (R36). -/
theorem engineStep_ok {s : State} {i : Instr} (hb : s.status.busy = true) (hd : decode s.latched.cmd = .ok i) :
    engineStep s = exec i s := by
  unfold engineStep
  rw [if_pos hb, hd]

/-- The fields of a command that an OP code without a format names (R57). -/
theorem fields_of_plainOp {op : Nat} {i : Instr} (h : plainOp op = some i) : i.opcode = op ∧ i.ofmtCode = 0 := by
  unfold plainOp at h
  split at h <;> cases h <;> exact ⟨rfl, rfl⟩

/-- The fields of a command that an OP code with a format names (R57). -/
theorem fields_of_formattedOp {op : Nat} {f : OutFmt} {i : Instr} (h : formattedOp op f = some i) :
    i.opcode = op ∧ i.ofmtCode = f.code := by
  unfold formattedOp at h
  split at h <;> cases h <;> exact ⟨rfl, rfl⟩

/-- No OP code is one with a format and one without (R58). -/
theorem formattedOp_eq_none_of_plainOp {op : Nat} {i : Instr} (h : plainOp op = some i) (f : OutFmt) :
    formattedOp op f = none := by
  have hop : op ∈ [1, 3, 4, 5, 6, 7, 8] := plainOp_isSome_iff.mp (by simp [h])
  rw [← Option.not_isSome_iff_eq_none, formattedOp_isSome_iff]
  simp only [List.mem_cons, List.not_mem_nil, or_false] at hop ⊢
  omega

/-- A word whose OP takes no format is that command, or ILLEGAL for any other bit set (R58, R60). -/
theorem decode_of_plainOp {c : Word} {i : Instr} (h : plainOp (opField c) = some i) :
    decode c = if c.toNat = opField c then .ok i else .illegal := by
  have hfields := toNat_eq_fields c
  unfold decode
  simp only [formattedOp_eq_none_of_plainOp h, h]
  by_cases hc : c.toNat = opField c
  · rw [if_neg (by omega), if_pos (by omega), if_pos hc]
  · rw [if_neg hc]
    split
    · rfl
    · exact if_neg (by omega)

/-- A word whose OP takes a format is ILLEGAL for a reserved bit, else FMT for OFMT = 3, else the command with that
format (R58, R60). -/
theorem decode_of_formattedOp {c : Word} {mk : OutFmt → Instr}
    (h : ∀ f, formattedOp (opField c) f = some (mk f)) :
    decode c = if rsvHiField c ≠ 0 ∨ rsvLoField c ≠ 0 then .illegal
      else if ofmtField c = 3 then .fmt else .ok (mk (ofmtOfCode (ofmtField c))) := by
  unfold decode
  rw [h]

/-- What the words of an operation without a format do, from its row of the opcode map (R57, R60). -/
theorem plainEncoding_of_plainOp {i : Instr} {op : Nat} (h : plainOp op = some i) : PlainEncoding i op := by
  obtain ⟨hop, hofmt⟩ := fields_of_plainOp h
  refine ⟨by simp [encode, hop, hofmt], fun s ht hc => ?_⟩
  rw [step_of_engineTurn ht]
  obtain ⟨hb, -⟩ := ht
  have hd : decode (turned s).latched.cmd = if s.latched.cmd.toNat = op then .ok i else .illegal := by
    rw [← hc]
    exact decode_of_plainOp (show plainOp (s.latched.cmd.toNat % 64) = some i from hc ▸ h)
  split_ifs at hd ⊢
  · exact engineStep_ok (s := turned s) hb hd
  · exact engineStep_illegal (s := turned s) hb hd

/-- What the words of an operation with a format do, from its row of the opcode map (R57, R60). -/
theorem formattedEncoding_of_formattedOp {mk : OutFmt → Instr} {op : Nat}
    (h : ∀ f, formattedOp op f = some (mk f)) : FormattedEncoding mk op := by
  have hencode : ∀ f, encode (mk f) = BitVec.ofNat 32 (f.code * 256 + op) := fun f => by
    obtain ⟨hop, hofmt⟩ := fields_of_formattedOp (h f)
    rw [encode, hop, hofmt]
  refine ⟨by simpa [OutFmt.code] using hencode .q7, hencode .q15, hencode .q16_15, fun s ht hc => ?_⟩
  rw [step_of_engineTurn ht]
  obtain ⟨hb, -⟩ := ht
  have hd := decode_of_formattedOp (mk := mk) fun f => (show opField s.latched.cmd = op from hc) ▸ h f
  have hlo : rsvLoField s.latched.cmd = s.latched.cmd.toNat / 64 % 4 := rfl
  have hfields := toNat_eq_fields s.latched.cmd
  have hrange := opField_lt s.latched.cmd
  have hofmt := ofmtField_lt s.latched.cmd
  have runs : ∀ n < 3, s.latched.cmd.toNat / 256 = n → s.latched.cmd.toNat / 64 % 4 = 0 →
      engineStep (turned s) = exec (mk (ofmtOfCode n)) (turned s) := fun n hn hc hlo0 => by
    have hf : ofmtField s.latched.cmd = n := by omega
    rw [if_neg (by omega), if_neg (by omega), hf] at hd
    exact engineStep_ok (s := turned s) hb hd
  dsimp only
  split_ifs with hrsv h0 h1 h2
  · rw [if_pos (by omega)] at hd
    exact engineStep_illegal (s := turned s) hb hd
  · exact runs 0 (by omega) h0 (by omega)
  · exact runs 1 (by omega) h1 (by omega)
  · exact runs 2 (by omega) h2 (by omega)
  · rw [if_neg (by omega), if_pos (by omega)] at hd
    exact engineStep_fmt (s := turned s) hb hd

/-! ### Completing with one result -/

/-- A command that writes RES0 and completes without error changes RES0 and STATUS alone (R107). -/
theorem complete_setRes0 (s : State) (r : Word) :
    complete (s.setRes0 r) .noError = { s with res0 := r, status := okStatus s.status } := rfl

/-- A command that completes with an error changes STATUS alone (R107). -/
theorem complete_error (s : State) {c : ErrCode} (h : c ≠ .noError) : complete s c = failed s c := by
  cases c with
  | noError => exact absurd rfl h
  | _ => rfl

/-- Reading back a written in-range integer gives it (R9). -/
theorem toInt_bits32 {v : Int} (lo : -2147483648 ≤ v) (hi : v ≤ 2147483647) : (bits32 v).toInt = v :=
  s32_bits32 lo hi

/-! ### RSHR -/

/-- A rounding shift is the floor of x / 2^k + 1/2 (R63). -/
theorem roundShift_eq_ediv (x : Int) {k : Nat} (hk : 0 < k) : roundShift x k = (x + 2 ^ (k - 1)) / 2 ^ k := by
  cases k with
  | zero => omega
  | succ j => rfl

/-- The floor of R63 as the inequality that pins it. -/
theorem roundShift_floor (x : Int) {k : Nat} (hk : 0 < k) :
    2 ^ k * roundShift x k ≤ x + 2 ^ (k - 1) ∧ x + 2 ^ (k - 1) < 2 ^ k * (roundShift x k + 1) := by
  have hpos : (0 : Int) < 2 ^ k := by positivity
  rw [roundShift_eq_ediv x hk]
  exact ⟨Int.mul_ediv_self_le hpos.ne', (Int.lt_mul_ediv_self_add hpos).trans_eq (by ring)⟩

/-- A rounding shift by at least one bit halves the signed 32-bit range (R67). -/
theorem roundShift_range {x : Int} (lo : -2147483648 ≤ x) (hi : x ≤ 2147483647) {k : Nat} (hk : 0 < k) :
    -1073741824 ≤ roundShift x k ∧ roundShift x k ≤ 1073741824 := by
  obtain ⟨j, rfl⟩ := Nat.exists_eq_succ_of_ne_zero hk.ne'
  have hj : (0 : Int) < 2 ^ j := by positivity
  have hpow : (2 : Int) ^ (j + 1) = 2 * 2 ^ j := by ring
  rw [roundShift_eq_ediv x hk, Nat.succ_sub_one, Nat.succ_eq_add_one, hpow]
  generalize (2 : Int) ^ j = p at hj
  constructor
  · exact Int.le_ediv_of_mul_le (by omega) (by omega)
  · exact Int.le_of_lt_add_one (Int.ediv_lt_of_lt_mul (by omega) (by omega))

/-- A shift count outside 0 to 31 is error SHAMT (R67). -/
theorem exec_rshr_shamt {s : State} (h : ¬ (0 ≤ argB s ∧ argB s ≤ 31)) :
    exec .rshr s = .next (failed s .shamt) := by
  have hb : opB s < 0 ∨ 31 < opB s := by change ¬ (0 ≤ opB s ∧ opB s ≤ 31) at h; omega
  simp only [exec, execRshr, if_pos hb, complete_error s (c := .shamt) (by decide)]

/-- A shift count in 0 to 31 writes the rounded shift to RES0 (R67). -/
theorem exec_rshr_ok {s : State} (h : 0 ≤ argB s ∧ argB s ≤ 31) :
    exec .rshr s = .next { s with
      res0 := bits32 (roundShift (argA s) (argB s).toNat), status := okStatus s.status } := by
  have hb : ¬ (opB s < 0 ∨ 31 < opB s) := by change 0 ≤ opB s ∧ opB s ≤ 31 at h; omega
  simp only [exec, execRshr, if_neg hb, complete_setRes0]
  rfl

/-- Settles O5: RES0 is the rounding shift, which its floor inequality pins and whose range makes RES0 exact. -/
theorem rshrRoundsOrReportsShamt : Obligations.RshrRoundsOrReportsShamt := by
  refine ⟨plainEncoding_of_plainOp rfl, fun s => ⟨exec_rshr_shamt, fun h => ⟨_, exec_rshr_ok h, fun h0 => ?_,
    fun hpos => ?_⟩⟩⟩
  · rw [h0]
    exact bits32_s32 s.latched.opa
  · have hk : 0 < (argB s).toNat := by omega
    obtain ⟨alo, ahi⟩ := s32_range s.latched.opa
    obtain ⟨lo, hi⟩ := roundShift_range (x := argA s) alo ahi hk
    obtain ⟨floor, ceil⟩ := roundShift_floor (argA s) hk
    rw [toInt_bits32 (by omega) (by omega)]
    exact ⟨floor, ceil, lo, hi⟩

/-! ### SATCVT -/

/-- The model's conversion is the one of R65 with its literals written out: a 32-bit value shifted by 16 bits needs
no clamp. -/
theorem cvt_eq_converted {f : OutFmt} {l : Layout} (h : layoutOf f = some l) {y : Int} (lo : -2147483648 ≤ y)
    (hi : y ≤ 2147483647) : cvt y l = converted f y := by
  rcases layoutOf_cases h with ⟨rfl, rfl⟩ | ⟨rfl, rfl⟩ | ⟨rfl, rfl⟩ <;>
    norm_num [cvt, sat, roundShift, asr, converted, clamp] <;> omega

/-- A conversion to a defined format fits 32 bits (R65). -/
theorem cvt_range32 {f : OutFmt} {l : Layout} (h : layoutOf f = some l) (y : Int) :
    -2147483648 ≤ cvt y l ∧ cvt y l ≤ 2147483647 := by
  have hrange := cvt_range y l
  rcases layoutOf_cases h with ⟨rfl, rfl⟩ | ⟨rfl, rfl⟩ | ⟨rfl, rfl⟩ <;> norm_num at hrange <;> omega

/-- SATCVT with a defined format writes the conversion to RES0 (R68). -/
theorem exec_satcvt {f : OutFmt} {l : Layout} (h : layoutOf f = some l) (s : State) :
    exec (.satcvt f) s = .next { s with res0 := bits32 (cvt (argA s) l), status := okStatus s.status } := by
  simp only [exec, execSatcvt, withFormat, h, complete_setRes0]
  rfl

/-- A well-formed format has a layout (R43). -/
theorem exists_layoutOf {f : OutFmt} (h : f.wellFormed = true) : ∃ l, layoutOf f = some l := by
  cases f with
  | reserved => cases h
  | q7 | q15 | q16_15 => exact ⟨_, rfl⟩

/-- Settles O6: each defined format's conversion fits 32 bits, so RES0 reads back as it. -/
theorem satcvtConverts : Obligations.SatcvtConverts := by
  refine ⟨formattedEncoding_of_formattedOp fun _ => rfl, fun s => ⟨rfl, fun f hf => ?_⟩⟩
  obtain ⟨l, hl⟩ := exists_layoutOf hf
  obtain ⟨lo, hi⟩ := cvt_range32 hl (argA s)
  obtain ⟨alo, ahi⟩ := s32_range s.latched.opa
  exact ⟨_, (toInt_bits32 lo hi).trans (cvt_eq_converted hl alo ahi), exec_satcvt hl s⟩

/-! ### MULQ31 -/

/-- The magnitude of a product of a 32-bit value and a factor other than -2^31. -/
theorem abs_mul_le_of_abs_le {a b : Int} (ha : |a| ≤ 2147483648) (hb : |b| ≤ 2147483647) :
    |a * b| ≤ 2147483648 * 2147483647 := by
  rw [abs_mul]
  exact mul_le_mul ha hb (abs_nonneg b) (by norm_num)

/-- A product of two 32-bit values that are not both -2^31 does not saturate (R64). -/
theorem mulQ31_eq_rounded {a b : Int} (alo : -2147483648 ≤ a) (ahi : a ≤ 2147483647) (blo : -2147483648 ≤ b)
    (bhi : b ≤ 2147483647) (h : ¬ (a = -2147483648 ∧ b = -2147483648)) : mulQ31 a b = rounded (a * b) := by
  have hab : |a * b| ≤ 2147483648 * 2147483647 := by
    by_cases hb : b = -2147483648
    · rw [mul_comm]
      exact abs_mul_le_of_abs_le (abs_le.mpr (by omega)) (abs_le.mpr (by omega))
    · exact abs_mul_le_of_abs_le (abs_le.mpr (by omega)) (abs_le.mpr (by omega))
  obtain ⟨lo, hi⟩ := abs_le.mp hab
  rw [mulQ31_eq, sat32_id (by omega) (by omega), rounded]

/-- MULQ31 writes the product to RES0 (R69). -/
theorem exec_mulq31 (s : State) :
    exec .mulq31 s = .next { s with
      res0 := bits32 (mulQ31 (argA s) (argB s)), status := okStatus s.status } := rfl

/-- Settles O7: the product saturates for the pair (-2^31, -2^31) alone. -/
theorem mulq31Multiplies : Obligations.Mulq31Multiplies := by
  refine ⟨plainEncoding_of_plainOp rfl, fun s => ⟨_, exec_mulq31 s, ?_⟩⟩
  have hread : (bits32 (mulQ31 (argA s) (argB s))).toInt = mulQ31 (argA s) (argB s) := s32_bits32_sat _
  obtain ⟨alo, ahi⟩ := s32_range s.latched.opa
  obtain ⟨blo, bhi⟩ := s32_range s.latched.opb
  rw [hread]
  refine ⟨fun ⟨ha, hb⟩ => ?_, mulQ31_eq_rounded alo ahi blo bhi⟩
  rw [ha, hb]
  decide

end Sys2Proof.Proofs
end

section
/-! PROOFS. The range reducer's commands RRED_SIG and RRED_TANH, family 41_range_reducer.md (R70 to R77). -/

namespace Sys2Proof.Proofs

open Sys2Proof Sys2Proof.Machine Sys2Proof.Stated

/-! ### The reduction in integers -/

/-- The saturated magnitude is |x| cut off at 2^31 - 1 (R66). -/
theorem satAbs_eq_min (x : Int) : satAbs x = min 2147483647 (max x (-x)) := by
  rw [satAbs, sat32_eq]
  split_ifs <;> omega

/-- The saturated magnitude is a Q31 value (R66). -/
theorem satAbs_range (x : Int) : 0 ≤ satAbs x ∧ satAbs x ≤ 2147483647 := by
  rw [satAbs_eq_min]
  omega

/-- With a Q31 constant the scaled magnitude is only rounded, never clamped (R64, R70). -/
theorem scaled_eq_rounded (x : Int) {k : Int} (hk : 0 ≤ k) (hk' : k ≤ 2147483647) :
    scaled x k = rounded (min 2147483647 (max x (-x)) * k) := by
  obtain ⟨lo, hi⟩ := satAbs_range x
  rw [← satAbs_eq_min]
  exact mulQ31_exact lo hi hk hk'

/-- The reduced pair is t split at bit 23, with the fraction moved up to Q31 (R70, R71). -/
theorem reduce_split (x k : Int) : (reduce x k).n * 2147483648 + (reduce x k).d = 256 * scaled x k := by
  simp only [reduce, asr23_eq]
  omega

/-! ### What the two commands write -/

/-- Completing a reduction writes sign, n and d, and changes nothing else but STATUS (R76, R77). -/
theorem completeReduced_eq (s : State) (r : Reduced) :
    completeReduced s r = { s with
      res0 := bits32 r.sign, res1 := bits32 r.n, res2 := bits32 r.d, status := okStatus s.status } := rfl

/-- A command that completes with Reduce by a Q31 constant reduces with it: sign, n and d fit 32 bits, so the words
written read back as them. -/
theorem reducesWith_of_exec {i : Instr} {k : Int} (hk : 0 ≤ k) (hk' : k ≤ 2147483647)
    (h : ∀ s, exec i s = .next (completeReduced s (reduce (argA s) k))) : ReducesWith i k := by
  intro s
  obtain ⟨hsign, ⟨nlo, nhi⟩, dlo, dhi⟩ := reduce_range (argA s) hk hk'
  refine ⟨_, _, _, by rw [h s, completeReduced_eq], ?_, ?_⟩
  · exact toInt_bits32 (by omega) (by omega)
  · rw [toInt_bits32 (v := (reduce (argA s) k).n) (by omega) (by omega),
      toInt_bits32 (v := (reduce (argA s) k).d) (by omega) (by omega), ← scaled_eq_rounded _ hk hk']
    exact ⟨nlo, dlo, reduce_split _ _⟩

/-- RRED_SIG reduces with K_SIG (R76). -/
theorem rredSig_reducesWith : ReducesWith .rredSig 774541002 :=
  reducesWith_of_exec (by decide) (by decide) fun _ => rfl

/-- RRED_TANH reduces with K_TANH (R77). -/
theorem rredTanh_reducesWith : ReducesWith .rredTanh 1549082005 :=
  reducesWith_of_exec (by decide) (by decide) fun _ => rfl

/-- Settles O8: the words by the opcode map, the results by the reduction with K_SIG. -/
theorem rredSigReduces : Obligations.RredSigReduces :=
  ⟨plainEncoding_of_plainOp rfl, rredSig_reducesWith⟩

/-- Settles O9: the words by the opcode map, the results by the reduction with K_TANH. -/
theorem rredTanhReduces : Obligations.RredTanhReduces :=
  ⟨plainEncoding_of_plainOp rfl, rredTanh_reducesWith⟩

/-! ### The ranges of the reduced pair -/

/-- What the next state of a reducing command holds: the sign, and a pair that splits the scaled magnitude (R70). -/
theorem reducesWith_results {i : Instr} {k : Int} (hr : ReducesWith i k) (hk : 0 ≤ k) (hk' : k ≤ 2147483647)
    {s t : State} (h : exec i s = .next t) :
    t.res0.toInt = (if argA s < 0 then 1 else 0) ∧ 0 ≤ t.res1.toInt ∧ 0 ≤ t.res2.toInt ∧
      t.res1.toInt * 2147483648 + t.res2.toInt = 256 * scaled (argA s) k := by
  obtain ⟨sign, n, d, hnext, hresults⟩ := hr s
  rw [hnext] at h
  cases h
  rw [scaled_eq_rounded _ hk hk']
  exact hresults

/-- The exponent and t are bounded by the scale constant: |x| is below 1, so t is at most k (R72). -/
theorem reducesWith_exponent_range {i : Instr} {k : Int} (hr : ReducesWith i k) (hk : 0 ≤ k)
    (hk' : k ≤ 2147483647) {s t : State} (h : exec i s = .next t) :
    0 ≤ t.res1.toInt ∧ t.res1.toInt ≤ k / 8388608 ∧ t.res1.toInt * 8388608 + t.res2.toInt / 256 ≤ k := by
  obtain ⟨-, hn, hd, hsplit⟩ := reducesWith_results hr hk hk' h
  obtain ⟨-, ht⟩ := scaled_range (argA s) hk hk'
  omega

/-- The sign is a bit; the fraction is a Q31 value whose low 8 bits are 0, as it and n·2^31 make up 256·t (R72). -/
theorem reducesWith_sign_fraction_range {i : Instr} {k : Int} (hr : ReducesWith i k) (hk : 0 ≤ k)
    (hk' : k ≤ 2147483647) {s t : State} (h : exec i s = .next t) :
    (t.res0.toInt = 0 ∨ t.res0.toInt = 1) ∧ 0 ≤ t.res2.toInt ∧ t.res2.toInt ≤ 2147483392 ∧
      t.res2.toInt % 256 = 0 := by
  obtain ⟨hsign, -, hd, hsplit⟩ := reducesWith_results hr hk hk' h
  obtain ⟨-, hword⟩ := s32_range t.res2
  rw [s32] at hword
  exact ⟨by split at hsign <;> omega, hd, by omega, by omega⟩

/-- Settles O10: the ranges follow from the equation n·2^31 + d = 256·t that both commands meet. -/
theorem reducedPairRanges : Obligations.ReducedPairRanges := fun _ _ =>
  ⟨reducesWith_exponent_range rredSig_reducesWith (by decide) (by decide),
    reducesWith_exponent_range rredTanh_reducesWith (by decide) (by decide),
    fun h => h.elim (reducesWith_sign_fraction_range rredSig_reducesWith (by decide) (by decide))
      (reducesWith_sign_fraction_range rredTanh_reducesWith (by decide) (by decide))⟩

end Sys2Proof.Proofs
end

section
/-! PROOFS. The polynomial evaluator's commands POLY and ANTILOG, family 42_polynomial.md (R78 to R83). -/

namespace Sys2Proof.Proofs

open Sys2Proof Sys2Proof.Machine Sys2Proof.Stated

/-! ### POLY -/

/-- The saturation to 32 bits is the clamp of R66 with its bounds written out. -/
theorem sat32_eq_clamp32 (v : Int) : sat 32 v = clamp32 v := by
  simp only [sat32_eq, clamp32, clamp]
  split_ifs <;> omega

/-- A multiply-accumulate step is one rounding, one exact sum and one clamp (R78). -/
theorem hornerStep_eq_clamp32 (d y c : Int) : hornerStep d y c = clamp32 (c + rounded (y * d)) := by
  rw [hornerStep, asr31_eq, sat32_eq_clamp32]
  rfl

/-- The last step clamps, so the polynomial of any argument fits 32 bits and RES0 reads back as it (R78). -/
theorem toInt_bits32_horner (d : Int) : (bits32 (horner d)).toInt = horner d := s32_bits32_sat _

/-- POLY writes the polynomial of its operand to RES0 (R82). -/
theorem exec_poly (s : State) :
    exec .poly s = .next { s with res0 := bits32 (horner (argA s)), status := okStatus s.status } :=
  congrArg Host.Outcome.next (complete_setRes0 s _)

/-- Settles O11: RES0 reads back as Horner's chain, each of whose four steps is a rounding and a clamp. -/
theorem polyEvaluatesHorner : Obligations.PolyEvaluatesHorner := by
  refine ⟨plainEncoding_of_plainOp rfl, fun s => ⟨_, exec_poly s, ?_⟩⟩
  rw [toInt_bits32_horner, horner_eq]
  simp only [hornerStep_eq_clamp32]

/-! ### ANTILOG -/

/-- RRED_SIG writes the reduction of its operand by K_SIG (R76). -/
theorem exec_rredSig (s : State) :
    exec .rredSig s = .next { s with
      res0 := bits32 (reduce (argA s) kSig).sign, res1 := bits32 (reduce (argA s) kSig).n,
      res2 := bits32 (reduce (argA s) kSig).d, status := okStatus s.status } :=
  congrArg Host.Outcome.next (completeReduced_eq s _)

/-- A command that writes all three results and completes without error changes them and STATUS alone (R107). -/
theorem complete_setRes012 (s : State) (r0 r1 r2 : Word) :
    complete (((s.setRes0 r0).setRes1 r1).setRes2 r2) .noError =
      { s with res0 := r0, res1 := r1, res2 := r2, status := okStatus s.status } := rfl

/-- ANTILOG writes the shifted polynomial, the polynomial and the exponent (R83). -/
theorem exec_antilog (s : State) :
    exec .antilog s = .next { s with
      res0 := bits32 (antilog (argA s)), res1 := bits32 (horner (reduce (argA s) kSig).d),
      res2 := bits32 (reduce (argA s) kSig).n, status := okStatus s.status } :=
  congrArg Host.Outcome.next (complete_setRes012 s _ _ _)

/-- The exponent and the fraction of RRED_SIG fit 32 bits, so RES1 and RES2 read back as them (R72). -/
theorem toInt_bits32_reduce_kSig (x : Int) :
    (bits32 (reduce x kSig).n).toInt = (reduce x kSig).n ∧
      (bits32 (reduce x kSig).d).toInt = (reduce x kSig).d := by
  obtain ⟨-, ⟨nlo, nhi⟩, dlo, dhi⟩ := reduce_range x (k := kSig) (by decide) (by decide)
  have hk : kSig / 8388608 = 92 := by decide
  exact ⟨toInt_bits32 (by omega) (by omega), toInt_bits32 (by omega) (by omega)⟩

/-- The shifted polynomial is a Q31 value, so RES0 reads back as it (R81). -/
theorem toInt_bits32_antilog (x : Int) : (bits32 (antilog x)).toInt = antilog x := by
  obtain ⟨lo, hi⟩ := antilog_range x
  exact toInt_bits32 (by omega) hi

/-- A replaced OPA is the operand read (R59). -/
theorem argA_withOpa (s : State) (w : Word) : argA (withOpa s w) = w.toInt := rfl

/-- Settles O13: RRED_SIG's fraction reads back from RES2, so POLY on it is the polynomial ANTILOG shifts, and the
exponent reads back from RES1 as the shift count. -/
theorem antilogComposes : Obligations.AntilogComposes := by
  refine ⟨plainEncoding_of_plainOp rfl, fun s => ?_⟩
  obtain ⟨hn, hd⟩ := toInt_bits32_reduce_kSig (argA s)
  have hpoly := exec_poly (withOpa s (bits32 (reduce (argA s) kSig).d))
  rw [argA_withOpa, hd] at hpoly
  refine ⟨_, _, _, exec_rredSig s, hpoly, exec_antilog s, ?_⟩
  rw [toInt_bits32_antilog, toInt_bits32_horner, hn]
  rfl

end Sys2Proof.Proofs
end

section
/-! PROOFS. The reciprocal refiner's command RECIP, family 43_reciprocal.md (R84 to R88). -/

namespace Sys2Proof.Proofs

open Sys2Proof Sys2Proof.Machine Sys2Proof.Stated

/-! ### The refiner with every clamp written out -/

/-- The product of any two factors is one rounding and one clamp (R64). -/
theorem mulQ31_eq_clamp32 (a b : Int) : mulQ31 a b = clamp32 (rounded (a * b)) := by
  rw [mulQ31_eq, sat32_eq_clamp32, rounded]

/-- The seed is one shift by a bit and one clamp (R84). -/
theorem seed_eq_clamp32 (x : Int) : seed x = clamp32 (2061584302 - x / 2) := by
  rw [seed, sat32_eq_clamp32, asr, pow_one, seedConst]

/-- The error of an estimate is clamped once, after its exact sum (R85). -/
theorem nrError_eq_clamp32 (y x : Int) :
    nrError y x = clamp32 (2147483647 - y - clamp32 (rounded (y * x))) := by
  rw [nrError, sat32_eq_clamp32, mulQ31_eq_clamp32, one]

/-- A Newton-Raphson step corrects the estimate by its rounded product with its error, and clamps (R85). -/
theorem nrStep_eq_clamp32 (y x : Int) :
    nrStep y x = clamp32 (y + clamp32 (rounded (y *
      clamp32 (2147483647 - y - clamp32 (rounded (y * x)))))) := by
  rw [nrStep, sat32_eq_clamp32, mulQ31_eq_clamp32, nrError_eq_clamp32]

/-! ### RECIP -/

/-- The second and the third estimate are each one step from the one before (R86). -/
theorem recip_steps (x : Int) :
    (recip x).y1 = nrStep (recip x).y0 x ∧ (recip x).y2 = nrStep (recip x).y1 x := ⟨rfl, rfl⟩

/-- The seed and both steps end in a clamp, so the three result registers read back as the estimates (R84, R85). -/
theorem toInt_bits32_recip (x : Int) :
    (bits32 (recip x).y0).toInt = (recip x).y0 ∧ (bits32 (recip x).y1).toInt = (recip x).y1 ∧
      (bits32 (recip x).y2).toInt = (recip x).y2 :=
  ⟨s32_bits32_sat _, s32_bits32_sat _, s32_bits32_sat _⟩

/-- RECIP writes the last estimate, the seed and the first step's estimate (R88). -/
theorem exec_recip (s : State) :
    exec .recip s = .next { s with
      res0 := bits32 (recip (argA s)).y2, res1 := bits32 (recip (argA s)).y0,
      res2 := bits32 (recip (argA s)).y1, status := okStatus s.status } :=
  congrArg Host.Outcome.next (complete_setRes012 s _ _ _)

/-- Settles O15: RES1, RES2 and RES0 read back as the three estimates, the first of which is the seed and each other
one Newton-Raphson step from the one before. -/
theorem recipRefinesTwice : Obligations.RecipRefinesTwice := by
  refine ⟨plainEncoding_of_plainOp rfl, fun s => ⟨_, _, _, exec_recip s, ?_⟩⟩
  obtain ⟨h0, h1, h2⟩ := toInt_bits32_recip (argA s)
  obtain ⟨first, second⟩ := recip_steps (argA s)
  rw [h0, h1, h2]
  refine ⟨seed_eq_clamp32 _, fun y y' h => ?_⟩
  rw [← nrStep_eq_clamp32]
  rcases h with h | h <;> cases h
  · exact first
  · exact second

end Sys2Proof.Proofs
end

section
/-! PROOFS. The entry checks of a kernel, and a kernel that maps a function over its buffer, family 44_sigmoid_tanh.md
(R94, R104). -/

namespace Sys2Proof.Proofs

open Sys2Proof Sys2Proof.Machine Sys2Proof.Stated

/-! ### The entry checks in integers -/

/-- The width of a format's layout is the number of bytes of its elements (R43). -/
theorem layoutOf_width {f : OutFmt} {l : Layout} (h : layoutOf f = some l) : l.width = elemBytes f := by
  rcases layoutOf_cases h with ⟨rfl, rfl⟩ | ⟨rfl, rfl⟩ | ⟨rfl, rfl⟩ <;> rfl

/-- A format with a layout has elements of some byte (R43). -/
theorem layoutOf_width_pos {f : OutFmt} {l : Layout} (h : layoutOf f = some l) : 0 < l.width := by
  rcases layoutOf_cases h with ⟨rfl, rfl⟩ | ⟨rfl, rfl⟩ | ⟨rfl, rfl⟩ <;> decide

/-- A buffer of n > 0 elements of w bytes lies in the window, in integers (R47). -/
theorem inWindow_mul_iff {p : Platform} {a w : Nat} {n : Int} (hw : 0 < w) (hn : 0 < n) :
    InWindow p a (w * n.toNat) ↔
      (p.memBase : Int) ≤ a ∧ (a : Int) + w * n ≤ p.memBase + p.memSize := by
  obtain ⟨m, rfl⟩ := Int.eq_ofNat_of_zero_le hn.le
  have hpos : 0 < w * m := Nat.mul_pos hw (by omega)
  rw [Int.toNat_natCast]
  omega

/-- Two buffers of n > 0 elements overlap, in integers (R48). -/
theorem overlap_mul_iff {a b v w : Nat} {n : Int} (hn : 0 < n) :
    Overlap a (v * n.toNat) b (w * n.toNat) ↔ (a : Int) < b + w * n ∧ (b : Int) < a + v * n := by
  obtain ⟨m, rfl⟩ := Int.eq_ofNat_of_zero_le hn.le
  rw [Int.toNat_natCast]
  omega

/-- The kernel's checks are those of R104 on integers, in the same order. -/
theorem checkKernel_eq_entryError {f : OutFmt} {l : Layout} (h : layoutOf f = some l) (s : State) :
    checkKernel s l = entryError s (elemBytes f) := by
  rw [← layoutOf_width h]
  refine ite_congr rfl (fun _ => rfl) fun hn => ite_congr rfl (fun _ => rfl) fun _ => ?_
  replace hn : 0 < argN s := Int.not_le.mp hn
  refine ite_congr (propext ?align) (fun _ => rfl) fun _ =>
    ite_congr (propext ?range) (fun _ => rfl) fun _ =>
      ite_congr (propext (overlap_mul_iff hn)) (fun _ => rfl) fun _ => rfl
  case align =>
    rw [Nat.dvd_iff_mod_eq_zero, Nat.dvd_iff_mod_eq_zero, not_and_or]
    rfl
  case range =>
    have hsrc := inWindow_mul_iff (p := s.platform) (a := argSrc s) (w := 4) (by decide) hn
    have hdst := inWindow_mul_iff (p := s.platform) (a := argDst s) (layoutOf_width_pos h) hn
    refine (or_congr (not_congr hsrc) (not_congr hdst)).trans ?_
    rw [not_and_or, not_and_or, Int.not_le, Int.not_le, Int.not_le, Int.not_le, or_assoc]
    rfl

/-- Every format but the reserved one is well formed (R43). -/
theorem wellFormed_of_ne_reserved {f : OutFmt} (h : f ≠ .reserved) : f.wellFormed = true := by
  cases f with
  | reserved => exact absurd rfl h
  | q7 | q15 | q16_15 => rfl

/-- An undisturbed kernel that its entry checks stop completes with the first that fails alone (R104, R107). -/
theorem kernelErrors_of_exec {mk : OutFmt → Instr} {body : OutFmt → State → Layout → State}
    (h : ∀ f s, exec (mk f) s = .next (runKernel f s (body f s))) : KernelErrors mk := by
  intro s f hf hd he
  obtain ⟨l, hl⟩ := exists_layoutOf (wellFormed_of_ne_reserved hf)
  rw [← checkKernel_eq_entryError hl] at he ⊢
  rw [h, runKernel_error hl he, storeNothing_undisturbed hd, complete_error s he]

/-! ### Mapping a function over the buffer -/

/-- What a kernel of the map form does once its checks pass: element i of OUT takes what the scalar command leaves in
RES1 for element i of IN, and nothing else changes but STATUS (R94). -/
def MapsScalar (kernel scalar : OutFmt → Instr) : Prop :=
  ∀ (s : State) (f : OutFmt), Ready s f → ∃ t : State,
    exec (kernel f) s = .next t ∧ t = { s with mem := t.mem, status := okStatus s.status } ∧
      (∀ i, i < (argN s).toNat → ∃ u : State,
        exec (scalar f) (withOpa s (BitVec.ofInt 32 (inElem s i))) = .next u ∧
          outElem t (elemBytes f) i = u.res1.toNat % 256 ^ elemBytes f) ∧
      ∀ b, OutsideOut s (elemBytes f) b → readByte t.mem b = readByte s.mem b

/-- The outputs of the map form: g of each input element, converted (R94). -/
def mappedOuts (g : Int → Int) (l : Layout) (s : State) : List Int := (inputElems s).map fun x => cvt (g x) l

/-- As many outputs as inputs (R94). -/
theorem length_mappedOuts (g : Int → Int) (l : Layout) (s : State) :
    (mappedOuts g l s).length = (argN s).toNat := by
  rw [mappedOuts, List.length_map, inputElems_length]
  rfl

/-- Output element i of an undisturbed kernel is g of the window's element i, converted (R94). -/
theorem mappedOuts_getElem? (g : Int → Int) (l : Layout) {s : State} (hd : s.disturbed = false) {i : Nat}
    (hi : i < (argN s).toNat) : (mappedOuts g l s)[i]? = some (cvt (g (inElem s i)) l) := by
  have helem : inputElem s i = inElem s i := by rw [inputElem, hd]; rfl
  rw [mappedOuts, List.getElem?_map, inputElems_getElem? hi, helem]
  rfl

/-- A kernel of the map form whose checks pass stores its outputs in OUT and completes (R94, R107). -/
theorem mapKernel_ready (g : Int → Int) {s : State} {f : OutFmt} {l : Layout} (hl : layoutOf f = some l)
    (h : Ready s f) : mapKernel g f s = { s with
      mem := storeElems l.width s.mem (argDst s) (mappedOuts g l s), status := okStatus s.status } := by
  obtain ⟨-, hentry, hd, -⟩ := h
  rw [mapKernel, runKernel_ok hl ((checkKernel_eq_entryError hl s).trans hentry), storeOutputs_undisturbed hd]
  rfl

/-- An input element written to OPA is the scalar command's operand (R44, R59). -/
theorem argA_withOpa_inElem (s : State) (i : Nat) : argA (withOpa s (BitVec.ofInt 32 (inElem s i))) = inElem s i := by
  rw [argA_withOpa, inElem, BitVec.ofInt_toInt]

/-- A kernel that maps g, and a scalar command that completes with g of its operand, correspond (R94). -/
theorem mapsScalar_of_exec {kernel scalar : OutFmt → Instr} {g : Int → Int}
    (hk : ∀ f s, exec (kernel f) s = .next (mapKernel g f s))
    (hs : ∀ f s, exec (scalar f) s = .next (withFormat f s (completeActivation s (g (argA s))))) :
    MapsScalar kernel scalar := by
  intro s f h
  have ⟨hf, _, hd, hmem⟩ := h
  obtain ⟨l, hl⟩ := exists_layoutOf hf
  refine ⟨_, (hk f s).trans (congrArg _ (mapKernel_ready g hl h)), rfl, fun i hi => ⟨_, hs f _, ?_⟩, fun b hb => ?_⟩
  · have hrun : ∀ u run, withFormat f u run = run l := fun _ _ => by rw [withFormat, hl]
    rw [hrun, argA_withOpa_inElem, ← layoutOf_width hl]
    exact memRead_storeElems hmem (mappedOuts_getElem? g l hd hi)
  · refine readByte_storeElems_outside hmem ?_
    rwa [length_mappedOuts, layoutOf_width hl]

end Sys2Proof.Proofs
end

section
/-! PROOFS. Sigmoid and tanh, the commands SIG1, TANH1, VSIGMOID and VTANH, family 44_sigmoid_tanh.md (R89 to R96). -/

namespace Sys2Proof.Proofs

open Sys2Proof Sys2Proof.Machine Sys2Proof.Stated

/-! ### The activations in integers -/

/-- The reduction's sign is that of its argument (R70). -/
theorem reduce_sign_eq_one_iff (x k : Int) : (reduce x k).sign = 1 ↔ x < 0 := by
  rw [reduce]
  split <;> simp_all

/-- ONE minus a Q31 value that is not negative needs no clamp (R66). -/
theorem sat32_one_sub {y : Int} (lo : 0 ≤ y) (hi : y ≤ 2147483647) : sat 32 (one - y) = 2147483647 - y :=
  sat32_id (by rw [one]; omega) (by rw [one]; omega)

/-- RECIP of ANTILOG is a Q31 value that is not negative (R87, R91). -/
theorem recip_antilog_range (x : Int) : 0 ≤ (recip (antilog x)).y2 ∧ (recip (antilog x)).y2 ≤ 2147483647 := by
  obtain ⟨lo, hi⟩ := antilog_range x
  exact (recip_range lo hi).2

/-- The sigmoid is RECIP of ANTILOG, reflected around ONE for a negative argument with no clamp (R89). -/
theorem sigQ31_eq (x : Int) : sigQ31 x =
    if x < 0 then 2147483647 - (recip (antilog x)).y2 else (recip (antilog x)).y2 := by
  obtain ⟨lo, hi⟩ := recip_antilog_range x
  rw [← sat32_one_sub lo hi]
  exact if_congr (reduce_sign_eq_one_iff x kSig) rfl rfl

/-- The sigmoid is a Q31 value that is not negative (R91). -/
theorem sigQ31_range (x : Int) : 0 ≤ sigQ31 x ∧ sigQ31 x ≤ 2147483647 := by
  obtain ⟨lo, hi⟩ := recip_antilog_range x
  rw [sigQ31_eq]
  split <;> omega

/-- z of the tanh: the polynomial of the reduced fraction, shifted by the exponent (R90). -/
def tanhZ (x : Int) : Int := applyExp (horner (reduce x kTanh).d) (reduce x kTanh).n.toNat

/-- z is a Q31 value that is not negative (R91). -/
theorem tanhZ_range (x : Int) : 0 ≤ tanhZ x ∧ tanhZ x ≤ 2147483647 := by
  obtain ⟨-, -, dlo, dhi⟩ := reduce_range x (k := kTanh) (by decide) (by decide)
  obtain ⟨plo, phi⟩ := horner_range dlo (dhi.trans (by decide))
  obtain ⟨lo, hi⟩ := asr_nonneg plo (reduce x kTanh).n.toNat
  exact ⟨lo, hi.trans phi⟩

/-- The magnitude of the tanh: (ONE - z) times RECIP of z (R90). -/
def tanhMag (x : Int) : Int := mulQ31 (2147483647 - tanhZ x) (recip (tanhZ x)).y2

/-- The magnitude of the tanh is a Q31 value that is not negative (R91). -/
theorem tanhMag_range (x : Int) : 0 ≤ tanhMag x ∧ tanhMag x ≤ 2147483647 := by
  obtain ⟨zlo, zhi⟩ := tanhZ_range x
  obtain ⟨-, rlo, rhi⟩ := recip_range zlo zhi
  obtain ⟨lo, hi⟩ := mulQ31_range (a := 2147483647 - tanhZ x) (by omega) (by omega) rlo rhi
  exact ⟨lo, by rw [tanhMag]; omega⟩

/-- The tanh is its magnitude with the sign of its argument, with no clamp (R90). -/
theorem tanhQ31_eq (x : Int) : tanhQ31 x = if x < 0 then -tanhMag x else tanhMag x := by
  obtain ⟨zlo, zhi⟩ := tanhZ_range x
  obtain ⟨lo, hi⟩ := tanhMag_range x
  have hmag : mulQ31 (sat 32 (one - tanhZ x)) (recip (tanhZ x)).y2 = tanhMag x := by
    rw [sat32_one_sub zlo zhi, tanhMag]
  have hneg : satNeg (tanhMag x) = -tanhMag x := sat32_id (by omega) (by omega)
  rw [← hneg, ← hmag]
  exact if_congr (reduce_sign_eq_one_iff x kTanh) rfl rfl

/-- The tanh lies between -ONE and ONE (R91). -/
theorem tanhQ31_range (x : Int) : -2147483647 ≤ tanhQ31 x ∧ tanhQ31 x ≤ 2147483647 := by
  obtain ⟨lo, hi⟩ := tanhMag_range x
  rw [tanhQ31_eq]
  split <;> omega

/-! ### What the two scalar commands write -/

/-- An activation writes its Q31 value and the conversion, and changes nothing else but STATUS (R92, R93). -/
theorem completeActivation_eq (s : State) (y : Int) (l : Layout) :
    completeActivation s y l = { s with
      res0 := bits32 y, res1 := bits32 (cvt y l), status := okStatus s.status } := rfl

/-- SIG1 with a defined format completes with the sigmoid of its operand (R92). -/
theorem exec_sig1 {f : OutFmt} {l : Layout} (h : layoutOf f = some l) (s : State) :
    exec (.sig1 f) s = .next { s with
      res0 := bits32 (sigQ31 (argA s)), res1 := bits32 (cvt (sigQ31 (argA s)) l), status := okStatus s.status } := by
  simp only [exec, execSig1, withFormat, h, completeActivation_eq]
  rfl

/-- TANH1 with a defined format completes with the tanh of its operand (R93). -/
theorem exec_tanh1 {f : OutFmt} {l : Layout} (h : layoutOf f = some l) (s : State) :
    exec (.tanh1 f) s = .next { s with
      res0 := bits32 (tanhQ31 (argA s)), res1 := bits32 (cvt (tanhQ31 (argA s)) l),
      status := okStatus s.status } := by
  simp only [exec, execTanh1, withFormat, h, completeActivation_eq]
  rfl

/-- The conversion of a 32-bit value reads back from RES1 as that of R65. -/
theorem toInt_bits32_cvt {f : OutFmt} {l : Layout} (h : layoutOf f = some l) {y : Int} (lo : -2147483648 ≤ y)
    (hi : y ≤ 2147483647) : (bits32 (cvt y l)).toInt = converted f (bits32 y).toInt := by
  obtain ⟨clo, chi⟩ := cvt_range32 h y
  rw [toInt_bits32 clo chi, toInt_bits32 lo hi, cvt_eq_converted h lo hi]

/-- Settles O17: ANTILOG's result reads back from RES0 as RECIP's operand, and the sigmoid needs no clamp. -/
theorem sig1Composes : Obligations.Sig1Composes := by
  refine ⟨formattedEncoding_of_formattedOp fun _ => rfl, fun s => ⟨rfl, fun f hf => ?_⟩⟩
  obtain ⟨l, hl⟩ := exists_layoutOf hf
  obtain ⟨lo, hi⟩ := sigQ31_range (argA s)
  have hrecip := exec_recip (withOpa s (bits32 (antilog (argA s))))
  rw [argA_withOpa, toInt_bits32_antilog] at hrecip
  obtain ⟨-, -, hy2⟩ := toInt_bits32_recip (antilog (argA s))
  refine ⟨_, _, _, _, exec_antilog s, hrecip, exec_sig1 hl s, ?_, toInt_bits32_cvt hl (by omega) hi⟩
  rw [toInt_bits32 (by omega) hi, hy2, sigQ31_eq]

/-- RRED_TANH writes the reduction of its operand by K_TANH (R77). -/
theorem exec_rredTanh (s : State) :
    exec .rredTanh s = .next { s with
      res0 := bits32 (reduce (argA s) kTanh).sign, res1 := bits32 (reduce (argA s) kTanh).n,
      res2 := bits32 (reduce (argA s) kTanh).d, status := okStatus s.status } :=
  congrArg Host.Outcome.next (completeReduced_eq s _)

/-- The exponent and the fraction of a reduction by a Q31 constant fit 32 bits, so their words read back as them
(R72). -/
theorem toInt_bits32_reduce (x : Int) {k : Int} (hk : 0 ≤ k) (hk' : k ≤ 2147483647) :
    (bits32 (reduce x k).n).toInt = (reduce x k).n ∧ (bits32 (reduce x k).d).toInt = (reduce x k).d := by
  obtain ⟨-, ⟨nlo, nhi⟩, dlo, dhi⟩ := reduce_range x hk hk'
  exact ⟨toInt_bits32 (by omega) (by omega), toInt_bits32 (by omega) (by omega)⟩

/-- z and ONE - z are Q31 values, so their words read back as them (R91). -/
theorem toInt_bits32_tanhZ (x : Int) : (bits32 (tanhZ x)).toInt = tanhZ x ∧
    (bits32 (2147483647 - tanhZ x)).toInt = 2147483647 - tanhZ x := by
  obtain ⟨lo, hi⟩ := tanhZ_range x
  exact ⟨toInt_bits32 (by omega) hi, toInt_bits32 (by omega) (by omega)⟩

/-- Replaced OPA and OPB are the operands read (R59). -/
theorem argA_argB_withOpaOpb (s : State) (a b : Word) :
    argA (withOpaOpb s a b) = a.toInt ∧ argB (withOpaOpb s a b) = b.toInt := ⟨rfl, rfl⟩

/-- MULQ31 of the words of ONE - z and of RECIP's y2 gives the magnitude of the tanh (R69, R90). -/
theorem exec_mulq31_tanhMag (s : State) (x : Int) :
    let s' := withOpaOpb s (bits32 (2147483647 - tanhZ x)) (bits32 (recip (tanhZ x)).y2)
    exec .mulq31 s' = .next { s' with res0 := bits32 (tanhMag x), status := okStatus s.status } := by
  intro s'
  obtain ⟨hA, hB⟩ : argA s' = _ ∧ argB s' = _ := argA_argB_withOpaOpb s _ _
  obtain ⟨-, hz'⟩ := toInt_bits32_tanhZ x
  obtain ⟨-, -, hy2⟩ := toInt_bits32_recip (tanhZ x)
  rw [exec_mulq31, hA, hB, hz', hy2, tanhMag]
  rfl

/-- Settles O18: each intermediate value is a Q31 value, so it reads back from its result register as the next
command's operand, and neither ONE - z nor the negation needs a clamp. -/
theorem tanh1Composes : Obligations.Tanh1Composes := by
  refine ⟨formattedEncoding_of_formattedOp fun _ => rfl, fun s => ⟨rfl, fun f hf => ?_⟩⟩
  obtain ⟨l, hl⟩ := exists_layoutOf hf
  obtain ⟨hn, hd⟩ := toInt_bits32_reduce (argA s) (k := kTanh) (by decide) (by decide)
  obtain ⟨hz, hz'⟩ := toInt_bits32_tanhZ (argA s)
  obtain ⟨mlo, mhi⟩ := tanhMag_range (argA s)
  obtain ⟨lo, hi⟩ := tanhQ31_range (argA s)
  have hpoly := exec_poly (withOpa s (bits32 (reduce (argA s) kTanh).d))
  rw [argA_withOpa, hd] at hpoly
  have hrecip := exec_recip (withOpa s (bits32 (tanhZ (argA s))))
  rw [argA_withOpa, hz] at hrecip
  refine ⟨_, _, _, _, _, _, _, _, exec_rredTanh s, hpoly, ?z, ?z', hrecip, exec_mulq31_tanhMag s _,
    exec_tanh1 hl s, ?y, toInt_bits32_cvt hl (by omega) hi⟩
  case z =>
    rw [hz, toInt_bits32_horner, hn]
    rfl
  case z' => rw [hz', hz]
  case y =>
    rw [toInt_bits32 (by omega) hi, toInt_bits32 (v := tanhMag _) (by omega) mhi, tanhQ31_eq]

/-! ### The two kernels -/

/-- Settles O23: the words by the opcode map, the errors by the entry checks, the outputs by the map form. -/
theorem vsigmoidMapsSig1 : Obligations.VsigmoidMapsSig1 :=
  ⟨formattedEncoding_of_formattedOp fun _ => rfl, kernelErrors_of_exec fun _ _ => rfl,
    mapsScalar_of_exec (fun _ _ => rfl) fun _ _ => rfl⟩

/-- Settles O24: as for VSIGMOID, with the tanh. -/
theorem vtanhMapsTanh1 : Obligations.VtanhMapsTanh1 :=
  ⟨formattedEncoding_of_formattedOp fun _ => rfl, kernelErrors_of_exec fun _ _ => rfl,
    mapsScalar_of_exec (fun _ _ => rfl) fun _ _ => rfl⟩

end Sys2Proof.Proofs
end

section
/-! PROOFS. Softmax, the command VSOFTMAX, family 45_softmax.md (R97 to R103). -/

namespace Sys2Proof.Proofs

open Sys2Proof Sys2Proof.Machine Sys2Proof.Stated

/-! ### The inputs and their maximum -/

/-- A kernel whose checks pass has at least one element (R104). -/
theorem argN_pos_of_ready {s : State} {f : OutFmt} (h : Ready s f) : 0 < argN s := by
  obtain ⟨hf, hentry, -, -⟩ := h
  obtain ⟨l, hl⟩ := exists_layoutOf hf
  exact (checkKernel_ok ((checkKernel_eq_entryError hl s).trans hentry)).1

/-- An undisturbed kernel's input elements are those of the window (R44). -/
theorem inputElems_undisturbed {s : State} (hd : s.disturbed = false) :
    inputElems s = (List.range (argN s).toNat).map (inElem s) :=
  List.map_congr_left fun i _ => by rw [inputElem, hd]; rfl

/-- A kernel whose checks pass has inputs to take the maximum of (R97, R104). -/
theorem inputElems_ne_nil {s : State} {f : OutFmt} (h : Ready s f) : inputElems s ≠ [] := by
  have hN := argN_pos_of_ready h
  refine List.ne_nil_of_length_pos ?_
  rw [inputElems_length]
  change 0 < (argN s).toNat
  omega

/-- The maximum of the inputs is an element of the window, and no element is larger (R97). -/
theorem maxElem_inputElems {s : State} {f : OutFmt} (h : Ready s f) :
    (∃ i, i < (argN s).toNat ∧ inElem s i = maxElem (inputElems s)) ∧
      ∀ i, i < (argN s).toNat → inElem s i ≤ maxElem (inputElems s) := by
  have hmem : ∀ x, x ∈ inputElems s ↔ ∃ i, i < (argN s).toNat ∧ inElem s i = x := fun x => by
    obtain ⟨-, -, hd, -⟩ := h
    simp [inputElems_undisturbed hd]
  obtain ⟨hmax, hle⟩ := maxElem_spec (inputElems_ne_nil h)
  exact ⟨(hmem _).mp hmax, fun i hi => hle _ ((hmem _).mpr ⟨i, hi, rfl⟩)⟩

/-! ### The exponentials and their sum -/

/-- A difference that is not positive saturates from below alone (R98). -/
theorem sat32_sub_of_le {x m : Int} (h : x ≤ m) : sat 32 (x - m) = max (-2147483648) (x - m) := by
  rw [sat32_eq]
  split_ifs <;> omega

/-- ANTILOG of the word of the saturated difference leaves e_i in RES0 (R98). -/
theorem exec_antilog_expElem (s : State) {x m : Int} (h : x ≤ m) : ∃ u : State,
    exec .antilog (withOpa s (BitVec.ofInt 32 (max (-2147483648) (x - m)))) = .next u ∧
      expElem m x = u.res0.toInt := by
  refine ⟨_, exec_antilog _, ?_⟩
  have hread : (BitVec.ofInt 32 (sat 32 (x - m))).toInt = sat 32 (x - m) := s32_bits32_sat _
  rw [argA_withOpa, ← sat32_sub_of_le h, hread, toInt_bits32_antilog, expElem]

/-- S of an undisturbed kernel is the sum of e_i over its window elements (R98). -/
theorem expSum_inputElems {s : State} (hd : s.disturbed = false) : expSum (inputElems s) =
    ((List.range (argN s).toNat).map fun i => expElem (maxElem (inputElems s)) (inElem s i)).sum := by
  rw [expSum]
  generalize maxElem (inputElems s) = m
  rw [inputElems_undisturbed hd, List.map_map]
  rfl

/-! ### The reciprocal and the outputs -/

/-- RECIP of the word of the mantissa's fraction leaves r in RES0: the fraction is a Q31 value (R99, R100). -/
theorem exec_recip_sumFraction (s : State) {sum : Int} (lo : 0 ≤ sumFraction sum)
    (hi : sumFraction sum ≤ 2147483647) : ∃ u : State,
    exec .recip (withOpa s (BitVec.ofInt 32 (sumFraction sum))) = .next u ∧ bits32 (sumRecip sum) = u.res0 := by
  refine ⟨_, exec_recip _, ?_⟩
  have hread : (BitVec.ofInt 32 (sumFraction sum)).toInt = sumFraction sum := toInt_bits32 (by omega) hi
  rw [argA_withOpa, hread, sumRecip]

/-- Scaling a value that is not negative is a floored division, or a doubling clamped from above alone (R100). -/
theorem scaleOut_eq (es : Int) {q : Int} (hq : 0 ≤ q) :
    scaleOut es q = if 0 ≤ es then q / 2 ^ es.toNat else min 2147483647 (2 * q) := by
  rw [scaleOut]
  refine ite_congr rfl (fun _ => rfl) fun _ => ?_
  rw [sat32_eq]
  split_ifs <;> omega

/-- o_i with its product written out: e_i and r are Q31 values, so the product is only rounded (R100). -/
theorem softmaxQ31_eq {xs : List Int} (h : xs ≠ []) (x : Int) : softmaxQ31 xs x =
    let q := rounded (expElem (maxElem xs) x * sumRecip (expSum xs))
    if 0 ≤ sumExp (expSum xs) then q / 2 ^ (sumExp (expSum xs)).toNat else min 2147483647 (2 * q) := by
  obtain ⟨elo, ehi⟩ : 0 ≤ expElem (maxElem xs) x ∧ expElem (maxElem xs) x ≤ 2147483647 := antilog_range _
  obtain ⟨rlo, rhi⟩ := sumRecip_range (expSum_ge h)
  obtain ⟨qlo, -⟩ := mulQ31_range elo ehi rlo rhi
  rw [softmaxQ31, scaleOut_eq _ qlo, mulQ31_exact elo ehi rlo rhi]
  rfl

/-- The reciprocal is a Q31 value, so RES1 reads back as it (R100). -/
theorem toInt_bits32_sumRecip {xs : List Int} (h : xs ≠ []) :
    (bits32 (sumRecip (expSum xs))).toInt = sumRecip (expSum xs) := by
  obtain ⟨lo, hi⟩ := sumRecip_range (expSum_ge h)
  exact toInt_bits32 (by omega) hi

/-- As many outputs as inputs (R100). -/
theorem length_softmaxOuts (l : Layout) (s : State) :
    (softmaxOuts l (inputElems s)).length = (argN s).toNat := by
  rw [softmaxOuts, List.length_map, inputElems_length]
  rfl

/-- Output element i of an undisturbed VSOFTMAX is o_i of the window's element i, converted (R100). -/
theorem softmaxOuts_getElem? {f : OutFmt} {l : Layout} (hl : layoutOf f = some l) {s : State} (h : Ready s f)
    {i : Nat} (hi : i < (argN s).toNat) : (softmaxOuts l (inputElems s))[i]? =
      some (converted f (softmaxQ31 (inputElems s) (inElem s i))) := by
  obtain ⟨lo, hi'⟩ := softmaxQ31_range (inputElems_ne_nil h) (inElem s i)
  obtain ⟨-, -, hd, -⟩ := h
  have helem : (inputElems s)[i]? = some (inElem s i) := by simp [inputElems_undisturbed hd, hi]
  rw [softmaxOuts, List.getElem?_map, helem, Option.map_some, cvt_eq_converted hl (by omega) hi']

/-! ### The command -/

/-- VSOFTMAX whose checks pass stores its outputs in OUT, writes m, r and e_s, and completes (R102, R103, R107). -/
theorem exec_vsoftmax_ready {s : State} {f : OutFmt} {l : Layout} (hl : layoutOf f = some l) (h : Ready s f) :
    exec (.vsoftmax f) s = .next { s with
      mem := storeElems l.width s.mem (argDst s) (softmaxOuts l (inputElems s)),
      res0 := bits32 (maxElem (inputElems s)), res1 := bits32 (sumRecip (expSum (inputElems s))),
      res2 := bits32 (sumExp (expSum (inputElems s))), status := okStatus s.status } := by
  obtain ⟨-, hentry, hd, -⟩ := h
  refine congrArg Host.Outcome.next ((runKernel_ok hl ((checkKernel_eq_entryError hl s).trans hentry) _).trans ?_)
  rw [storeOutputs_undisturbed hd]
  exact complete_setRes012 (s.setMem _) _ _ _

/-- Settles O25: the words by the opcode map, the errors by the entry checks; the normalisation brackets S because the
maximum alone contributes 2^31 - 1, and every value on the way to o_i is a Q31 value, so it reads back from the word
the scalar commands take. -/
theorem vsoftmaxComputes : Obligations.VsoftmaxComputes := by
  refine ⟨formattedEncoding_of_formattedOp fun _ => rfl, kernelErrors_of_exec fun _ _ => rfl, fun s f h => ?_⟩
  have ⟨hf, _, hd, hmem⟩ := h
  obtain ⟨l, hl⟩ := exists_layoutOf hf
  have hne := inputElems_ne_nil h
  obtain ⟨hmax, hle⟩ := maxElem_inputElems h
  obtain ⟨hes, hlo, hhi, hxs, xlo, xhi⟩ := sumExp_spec (expSum_ge hne)
  refine ⟨_, maxElem (inputElems s), sumExp (expSum (inputElems s)), sumFraction (expSum (inputElems s)),
    fun i => expElem (maxElem (inputElems s)) (inElem s i), fun i => softmaxQ31 (inputElems s) (inElem s i),
    bits32 (sumRecip (expSum (inputElems s))), hmax, hle, fun i hi => exec_antilog_expElem s (hle i hi), ?sum,
    ⟨xlo, xhi⟩, exec_recip_sumFraction s xlo xhi, fun i _ => ?out, exec_vsoftmax_ready hl h, rfl,
    fun i hi => ?stored, fun b hb => ?outside⟩
  case sum =>
    rw [← expSum_inputElems hd]
    exact ⟨hes, hlo, hhi, hxs⟩
  case out =>
    rw [toInt_bits32_sumRecip hne]
    exact softmaxQ31_eq hne _
  case stored =>
    rw [← layoutOf_width hl]
    exact memRead_storeElems hmem (softmaxOuts_getElem? hl h hi)
  case outside =>
    refine readByte_storeElems_outside hmem ?_
    rwa [length_softmaxOuts, layoutOf_width hl]

end Sys2Proof.Proofs
end

section
/-! PROOFS. The errors of a command, family 60_exceptions.md: which code a command completes with (R104, R106), and
that a command that fails is never partially applied (R107). -/

namespace Sys2Proof.Proofs

open Sys2Proof Sys2Proof.Machine Sys2Proof.Stated

/-! ### Completing with a code -/

/-- The command of s completes as t with code c. When c is an error it changes STATUS alone, but for the window and
the count of draws where the host disturbed the command (R51, R107). -/
structure CompletesWith (s t : State) (c : ErrCode) : Prop where
  status : t.status = statusCompleted s.status c
  error : c ≠ .noError → t = { s with status := t.status, mem := t.mem, draws := t.draws }
  undisturbed : c ≠ .noError → s.disturbed = false → t = failed s c

/-- The code in STATUS is the one completed with (R27). -/
theorem CompletesWith.code {s t : State} {c : ErrCode} (h : CompletesWith s t c) : t.status.code = c := by
  rw [h.status]; rfl

/-- A command that writes nothing before it completes (R107). -/
theorem complete_completesWith (s : State) (c : ErrCode) : CompletesWith s (complete s c) c :=
  ⟨rfl, fun _ => rfl, fun hc _ => complete_error s hc⟩

/-- A command that completes without error, whatever it wrote beside STATUS (R107). -/
theorem completesWith_noError {s t : State} (h : t.status = statusCompleted s.status .noError) :
    CompletesWith s t .noError := ⟨h, absurd rfl, absurd rfl⟩

/-- A kernel that its entry checks stop (R51, R104). -/
theorem complete_storeNothing_completesWith (s : State) (l : Layout) (c : ErrCode) :
    CompletesWith s (complete (storeNothing s l) c) c := by
  cases hd : s.disturbed with
  | false => rw [storeNothing_undisturbed hd]; exact complete_completesWith s c
  | true =>
    rw [storeNothing_drawn hd]
    exact ⟨rfl, fun _ => rfl, fun _ hd' => by simp [hd] at hd'⟩

/-! ### The code of each command -/

/-- FMT for the reserved format, else c (R58, R106). -/
def formatError (f : OutFmt) (c : ErrCode) : ErrCode := if f = .reserved then .fmt else c

/-- A format with a layout is no error (R43). -/
theorem formatError_of_layoutOf {f : OutFmt} {l : Layout} (h : layoutOf f = some l) (c : ErrCode) :
    formatError f c = c := if_neg fun hf => by rw [hf] at h; cases h

/-- The code a command completes with (R67, R104, R106). -/
def commandError (s : State) : Instr → ErrCode
  | .rshr => if 0 ≤ argB s ∧ argB s ≤ 31 then .noError else .shamt
  | .satcvt f | .sig1 f | .tanh1 f => formatError f .noError
  | .vsigmoid f | .vtanh f | .vsoftmax f => formatError f (entryError s (elemBytes f))
  | .mulq31 | .rredSig | .rredTanh | .poly | .antilog | .recip => .noError

/-- A formatted operation that can fail by its format alone (R58). -/
theorem withFormat_completesWith {f : OutFmt} {s : State} {run : Layout → State}
    (hr : ∀ l, CompletesWith s (run l) .noError) :
    CompletesWith s (withFormat f s run) (formatError f .noError) := by
  cases f with
  | reserved => exact complete_completesWith s .fmt
  | q7 | q15 | q16_15 => exact hr _

/-- A kernel fails by its format, else by its entry checks, else not at all (R104, R106). -/
theorem runKernel_completesWith {f : OutFmt} {s : State} {body : Layout → State}
    (hb : ∀ l, CompletesWith s (body l) .noError) :
    CompletesWith s (runKernel f s body) (formatError f (entryError s (elemBytes f))) := by
  rcases runKernel_cases f s body with ⟨rfl, h⟩ | ⟨l, hl, -, h⟩ | ⟨l, hl, hc, h⟩ <;> rw [h]
  · exact complete_completesWith s .fmt
  · rw [formatError_of_layoutOf hl, ← checkKernel_eq_entryError hl]
    exact complete_storeNothing_completesWith s l _
  · rw [formatError_of_layoutOf hl, ← checkKernel_eq_entryError hl, hc]
    exact hb l

/-- Every command completes with its code (R106, R107). -/
theorem exec_completesWith (i : Instr) (s : State) :
    ∃ t, exec i s = .next t ∧ CompletesWith s t (commandError s i) := by
  cases i with
  | rshr =>
    rw [commandError]
    split
    case isTrue h => exact ⟨_, exec_rshr_ok h, completesWith_noError rfl⟩
    case isFalse h => exact ⟨_, exec_rshr_shamt h, complete_completesWith s .shamt⟩
  | satcvt f | sig1 f | tanh1 f =>
    exact ⟨_, rfl, withFormat_completesWith fun _ => completesWith_noError rfl⟩
  | vsigmoid f | vtanh f | vsoftmax f =>
    exact ⟨_, rfl, runKernel_completesWith fun _ => completesWith_noError (by simp [setSoftmaxRes])⟩
  | mulq31 | rredSig | rredTanh | poly | antilog | recip => exact ⟨_, rfl, completesWith_noError rfl⟩

/-! ### Kernels -/

/-- The reserved format of a kernel is error FMT alone (R106). -/
theorem exec_kernel_reserved {i : Instr} (h : IsKernel i .reserved) (s : State) :
    exec i s = .next (failed s .fmt) := by
  rcases h with rfl | rfl | rfl <;> rfl

/-- A kernel's code is FMT, or that of its entry checks (R104, R106). -/
theorem commandError_kernel {i : Instr} {f : OutFmt} (h : IsKernel i f) (s : State) :
    commandError s i = formatError f (entryError s (elemBytes f)) := by
  rcases h with rfl | rfl | rfl <;> rfl

/-- Settles O22: the code of a kernel with a defined format is that of its entry checks, and completing with it
changes STATUS alone. -/
theorem kernelEntryChecks : Obligations.KernelEntryChecks := by
  refine fun i f s hk => ⟨fun hf => exec_kernel_reserved (hf ▸ hk) s, fun hf => ?_⟩
  obtain ⟨t, ht, h⟩ := exec_completesWith i s
  refine ⟨t, ht, ?_, h.code.symm ▸ h.undisturbed⟩
  rw [h.code, commandError_kernel hk]
  exact if_neg hf

/-! ### The code of the running word -/

/-- A two-bit OFMT is the code of the format it names (R43). -/
theorem code_ofmtOfCode {n : Nat} (h : n < 4) : (ofmtOfCode n).code = n := by
  interval_cases n <;> rfl

/-- A word that runs a command holds its OP and OFMT and nothing else, and its format is defined (R55, R58). -/
theorem toNat_of_decode_ok {c : Word} {i : Instr} (h : decode c = .ok i) :
    c.toNat = i.ofmtCode * 256 + i.opcode ∧ i.ofmtCode ≠ 3 := by
  have hfields := toNat_eq_fields c
  have hcode := code_ofmtOfCode (ofmtField_lt c)
  unfold decode at h
  split at h
  · cases h
  split at h
  case h_1 j hj =>
    obtain ⟨hop, hf⟩ := fields_of_formattedOp hj
    split_ifs at h
    cases h
    omega
  case h_2 =>
    split at h
    case h_1 j hj =>
      obtain ⟨hop, hf⟩ := fields_of_plainOp hj
      split_ifs at h
      cases h
      omega
    case h_2 => cases h

/-- The order of R106 by what the word decodes to: the encoding errors first, then those of its OP. -/
theorem reportedError_eq_decode (s : State) : reportedError s =
    if decode s.latched.cmd = .illegal then .illegal
    else if decode s.latched.cmd = .fmt then .fmt
    else if opField s.latched.cmd = 1 ∧ ¬ (0 ≤ argB s ∧ argB s ≤ 31) then .shamt
    else if 16 ≤ opField s.latched.cmd then entryError s (2 ^ (s.latched.cmd.toNat / 256))
    else .noError := by
  refine ite_congr (propext (Iff.trans ?illegal (decode_eq_illegal_iff _).symm)) (fun _ => rfl) fun _ =>
    ite_congr (propext (Iff.trans ?fmt (decode_eq_fmt_iff _).symm)) (fun _ => rfl) fun _ => rfl
  all_goals
    simp only [decode_eq_illegal_iff, Bool.or_eq_false_iff, Bool.or_eq_true, Bool.and_eq_true,
      Bool.and_eq_false_iff, beq_iff_eq, beq_eq_false_iff_ne, decide_eq_true_eq, decide_eq_false_iff_not,
      rsvHiField, rsvLoField, opField, ofmtField, List.mem_cons, List.not_mem_nil, or_false] at *
    omega

/-- An ILLEGAL word reports that code (R106). -/
theorem reportedError_of_illegal {s : State} (h : decode s.latched.cmd = .illegal) : reportedError s = .illegal := by
  rw [reportedError_eq_decode, if_pos h]

/-- An FMT word reports that code (R106). -/
theorem reportedError_of_fmt {s : State} (h : decode s.latched.cmd = .fmt) : reportedError s = .fmt := by
  rw [reportedError_eq_decode, h]
  rfl

/-- A word that runs a command reports the command's code (R106). -/
theorem reportedError_of_ok {s : State} {i : Instr} (h : decode s.latched.cmd = .ok i) :
    reportedError s = commandError s i := by
  obtain ⟨hc, hf⟩ := toNat_of_decode_ok h
  unfold reportedError
  rw [hc]
  cases i with
  | satcvt f | sig1 f | tanh1 f | vsigmoid f | vtanh f | vsoftmax f =>
    cases f with
    | reserved => exact absurd rfl hf
    | q7 | q15 | q16_15 => rfl
  | rshr => by_cases hb : 0 ≤ argB s ∧ argB s ≤ 31 <;> simp [commandError, Instr.opcode, Instr.ofmtCode, hb]
  | _ => rfl

/-! ### The engine's turn -/

/-- In BUSY the engine's turn completes the command with the code its word reports (R36, R106, R107). -/
theorem engineStep_completesWith {s : State} (hb : s.status.busy = true) :
    ∃ t, engineStep s = .next t ∧ CompletesWith s t (reportedError s) := by
  rcases engineStep_cases s with ⟨hidle, -⟩ | ⟨-, i, hd, e⟩ | ⟨-, hd, e⟩ | ⟨-, hd, e⟩
  · rw [hb] at hidle; cases hidle
  · rw [e, reportedError_of_ok hd]; exact exec_completesWith i s
  · rw [reportedError_of_illegal hd]; exact ⟨_, e, complete_completesWith s _⟩
  · rw [reportedError_of_fmt hd]; exact ⟨_, e, complete_completesWith s _⟩

/-- A running command's scheduled turn completes it with the code its word reports (R36, R106, R107). -/
theorem step_completesWith {s : State} (h : EngineTurn s) :
    ∃ t, step s = .next t ∧ CompletesWith (turned s) t (reportedError s) := by
  rw [step_of_engineTurn h]
  obtain ⟨hb, -⟩ := h
  exact engineStep_completesWith (s := turned s) hb

/-- Settles O33: the engine's turn completes with the code its word reports. -/
theorem firstErrorIsReported : Obligations.FirstErrorIsReported := by
  intro s h
  obtain ⟨t, ht, hw⟩ := step_completesWith h
  exact ⟨t, ht, hw.code⟩

/-- Settles O34: the engine's turn completes with a code, and what an error leaves as it was is part of completing
with it. -/
theorem completionNeverPartial : Obligations.CompletionNeverPartial := by
  intro s h
  obtain ⟨t, ht, hw⟩ := step_completesWith h
  refine ⟨t, ht, ?status, fun hc => ?_⟩
  case status => rw [hw.code, hw.status]; rfl
  rw [hw.code] at hc
  refine ⟨hw.error hc, fun hd => ?_⟩
  rw [hw.undisturbed hc hd]
  exact ⟨rfl, rfl⟩

end Sys2Proof.Proofs
end

section
/-! PROOFS. Reset, family 70_reset_and_hazards.md: what it clears and what it keeps (R39, R115). -/

namespace Sys2Proof.Proofs

open Sys2Proof Sys2Proof.Machine Sys2Proof.Stated

/-! ### What no step changes in the register block -/

/-- From offset 0x28 on only the constants are registers, and they read the same in every state (R33). -/
theorem readReg_const (s t : State) {r : Reg} (h : 0x28 ≤ regOffset r) : readReg s r = readReg t r := by
  cases r with
  | const0 | const1 | const2 | const3 | const4 | const5 | const6 | const7 => rfl
  | _ => exact absurd h (by decide)

/-- A read from offset 0x28 on is the same in every state (R33, R34). -/
theorem readOffset_const_or_reserved (s t : State) {off : Nat} (h : 0x28 ≤ off) :
    readOffset s off = readOffset t off := by
  unfold readOffset
  cases hr : regAt off with
  | none => rfl
  | some r => exact readReg_const s t (eq_regOffset_of_regAt hr ▸ h)

/-! ### OUT of the running command -/

/-- The commands with an output layout are the kernels, which have that of their format (R43, R45). -/
theorem kernelLayout_eq_some_iff {i : Instr} {l : Layout} :
    kernelLayout i = some l ↔ ∃ f, IsKernel i f ∧ layoutOf f = some l := by
  constructor
  · intro h
    cases i with
    | vsigmoid f => exact ⟨f, .inl rfl, h⟩
    | vtanh f => exact ⟨f, .inr (.inl rfl), h⟩
    | vsoftmax f => exact ⟨f, .inr (.inr rfl), h⟩
    | _ => cases h
  · rintro ⟨f, rfl | rfl | rfl, h⟩ <;> exact h

/-- A layout is that of the running command exactly when a kernel with the layout's format runs (R45). -/
theorem runningLayout_eq_some_iff {s : State} {l : Layout} :
    runningLayout s = some l ↔
      s.status.busy = true ∧ ∃ i f, decode s.latched.cmd = .ok i ∧ IsKernel i f ∧ layoutOf f = some l := by
  unfold runningLayout
  cases s.status.busy with
  | false => simp
  | true => cases decode s.latched.cmd <;> simp [kernelLayout_eq_some_iff]

/-- A byte of the model's OUT span is a byte of OUT as the statements say it (R45, R51). -/
theorem runningOutByte_of_inSpan {s : State} {b : Nat} (h : InSpan (runningOut s) b) : RunningOutByte s b := by
  unfold runningOut at h
  cases hl : runningLayout s with
  | none =>
    simp only [hl] at h
    exact absurd h.2 (Nat.not_lt_zero b)
  | some l =>
    simp only [hl] at h
    obtain ⟨hbusy, i, f, hd, hk, hf⟩ := runningLayout_eq_some_iff.mp hl
    exact ⟨hbusy, i, f, hd, hk, layoutOf_width hf ▸ h⟩

/-! ### Reset -/

/-- Reset leaves every byte but those of an abandoned command's OUT (R115). -/
theorem readByte_resetStep {s : State} (hw : memWf s.mem = true) {b : Nat} (hb : ¬ RunningOutByte s b) :
    readByte (resetStep s).mem b = readByte s.mem b := by
  rw [resetStep_mem]
  exact readByte_drawSpan_outside hw fun h => hb (runningOutByte_of_inSpan h.1)

/-- Settles O48: a reset is one step; the constants read the same in every state, and the drawn span is the abandoned
command's OUT. -/
theorem resetClearsRegistersKeepsWindow : Obligations.ResetClearsRegistersKeepsWindow := by
  intro s es hi hw
  exact ⟨_, step_reset hi, rfl, fun off hoff => readOffset_const_or_reserved _ _ (by omega),
    fun b hb => readByte_resetStep (s := s.setInputs es) hw hb⟩

end Sys2Proof.Proofs
end

section
/-! PROOFS. The command word read and written: decode and encode are inverse to each other (R55 to R58, R61). -/

namespace Sys2Proof.Proofs

open Sys2Proof Sys2Proof.Machine Sys2Proof.Stated

/-- A command is well formed exactly when its OFMT is not the reserved code (R43, R56). -/
theorem wellFormed_iff_ofmtCode_ne (i : Instr) : i.wellFormed = true ↔ i.ofmtCode ≠ 3 := by
  cases i with
  | satcvt f | sig1 f | tanh1 f | vsigmoid f | vtanh f | vsoftmax f =>
    cases f <;> simp [Instr.wellFormed, OutFmt.wellFormed, Instr.ofmtCode, OutFmt.code]
  | _ => simp [Instr.wellFormed, Instr.ofmtCode]

/-- A word that runs a command is that command's encoding, and the command is well formed (R58, R61). -/
theorem encode_of_decode_ok {c : Word} {i : Instr} (h : decode c = .ok i) :
    i.wellFormed = true ∧ encode i = c := by
  obtain ⟨hword, hformat⟩ := toNat_of_decode_ok h
  refine ⟨(wellFormed_iff_ofmtCode_ne i).mpr hformat, ?_⟩
  rw [encode, ← hword, BitVec.ofNat_toNat, BitVec.setWidth_eq]

/-- Settles O2: a word that decodes holds its command's fields and nothing else, and a well-formed command's encoding
decodes back to it. -/
theorem decodeIffEncodes : Obligations.DecodeIffEncodes := by
  refine fun c i => ⟨encode_of_decode_ok, ?_⟩
  rintro ⟨hf, rfl⟩
  exact decode_encode hf

/-- Settles O1: the decoder evaluated on the eight words. -/
theorem writtenOutWordsDecode : Obligations.WrittenOutWordsDecode := by
  unfold Obligations.WrittenOutWordsDecode
  decide

end Sys2Proof.Proofs
end

section
/-! PROOFS. What every step keeps: the machine's invariant (R8, R21 to R27, R40), and the platform with the constants
(R33, R117). -/

namespace Sys2Proof.Proofs

open Sys2Proof Sys2Proof.Machine Sys2Proof.Safety Sys2Proof.Stated

/-! ### The invariant at reset -/

/-- The platform of State.reset meets R8, whatever the raw one is (log 1). -/
theorem platform_admissible : Config.platform.Admissible := by
  unfold Config.platform
  split
  case isTrue h => exact h
  case isFalse => decide

/-- STATUS after reset or a start is consistent, when CMD is then the latched word (R36, R39). -/
theorem statusConsistent_of_noError {s : State} (he : s.status.err = false) (hc : s.status.code = .noError)
    (hb : s.status.busy = true → s.status.done = false ∧ s.cmd = s.latched.cmd) : StatusConsistent s :=
  ⟨by rw [he, hc]; rfl, fun h => ⟨(hb h).1, hc, (hb h).2⟩⟩

/-- Settles O51: reset clears the registers, and a list without a byte is a canonical memory. -/
theorem resetMeetsInvariant : Obligations.ResetMeetsInvariant :=
  ⟨platform_admissible, statusConsistent_of_noError rfl rfl nofun, fun _ _ => ⟨rfl, rfl, rfl, rfl, rfl, rfl⟩,
    rfl, nofun⟩

/-- Settles O50: the registers below the constants are cleared, and no byte is listed. -/
theorem resetStateReadsZero : Obligations.ResetStateReadsZero := by
  refine ⟨fun r hr => ?_, rfl, fun b => rfl⟩
  cases r with
  | const0 | const1 | const2 | const3 | const4 | const5 | const6 | const7 => exact absurd hr (by decide)
  | _ => rfl

/-! ### The invariant, agent by agent -/

/-- The engine's turn leaves the state in IDLE, and stays within a command's frame in BUSY (R36, R107). -/
theorem commandFrame_of_engineStep {s t : State} (ht : engineStep s = .next t) :
    (s.status.busy = false ∧ t = s) ∨ (s.status.busy = true ∧ CommandFrame s t) := by
  cases hb : s.status.busy with
  | false =>
    obtain rfl : s = t := by simpa [engineStep, hb] using ht
    exact .inl ⟨rfl, rfl⟩
  | true =>
    obtain ⟨u, hu, frame⟩ := engineStep_busy hb
    obtain rfl : u = t := Host.Outcome.next.inj (hu.symm.trans ht)
    exact .inr ⟨rfl, frame⟩

/-- A completed command leaves the invariant, when its memory stays inside the window (R107). -/
theorem inv_of_commandFrame {s t : State} (h : Inv s) (frame : CommandFrame s t) (hm : MemInWindow t) : Inv t := by
  obtain ⟨hp, -, -, -⟩ := h
  refine ⟨frame.platform ▸ hp, ⟨?_, fun hb => ?_⟩, fun _ hd => ?_, hm⟩
  · rw [frame.status]; rfl
  · rw [frame.status] at hb; cases hb
  · rw [frame.status] at hd; cases hd

/-- A command writes inside the window only (R42). -/
theorem memInWindow_exec {i : Instr} {s t : State} (h : MemInWindow s) (ht : exec i s = .next t) : MemInWindow t := by
  obtain ⟨hw, hin⟩ := h
  obtain ⟨u, hu, frame⟩ := exec_next i s
  obtain rfl : u = t := Host.Outcome.next.inj (hu.symm.trans ht)
  obtain ⟨hw', hin'⟩ := exec_mem ht hw
  rw [MemInWindow, frame.platform]
  exact ⟨hw', fun c hc => (hin' c hc).elim (hin c) id⟩

/-- The engine writes inside the window only (R42). -/
theorem memInWindow_engineStep {s t : State} (h : MemInWindow s) (ht : engineStep s = .next t) : MemInWindow t := by
  rcases engineStep_cases s with ⟨-, e⟩ | ⟨-, i, -, e⟩ | ⟨-, -, e⟩ | ⟨-, -, e⟩ <;> rw [e] at ht
  · cases ht; exact h
  · exact memInWindow_exec h ht
  · cases ht; exact h
  · cases ht; exact h

/-- The engine's turn keeps the invariant. -/
theorem inv_engineStep {s t : State} (h : Inv s) (ht : engineStep s = .next t) : Inv t := by
  rcases commandFrame_of_engineStep ht with ⟨-, rfl⟩ | ⟨-, frame⟩
  · exact h
  · have ⟨_, _, _, hm⟩ := h
    exact inv_of_commandFrame h frame (memInWindow_engineStep hm ht)

/-- A started command shows neither DONE nor an error, and CMD is the latched word (R36). -/
theorem inv_startCommand {s : State} (h : Inv s) (v : Word) : Inv (startCommand s v) := by
  obtain ⟨hp, -, -, hm⟩ := h
  exact ⟨hp, statusConsistent_of_noError rfl rfl fun _ => ⟨rfl, rfl⟩, nofun, hm⟩

/-- A lost command shows in LOST alone (R26). -/
theorem inv_lost {s : State} (h : Inv s) (hb : s.status.busy = true) : Inv (s.setStatus (statusLost s.status)) := by
  obtain ⟨hp, hst, -, hm⟩ := h
  exact ⟨hp, hst, fun hidle => absurd (hb.symm.trans hidle) (by decide), hm⟩

/-- A host write to the register block keeps the invariant. -/
theorem inv_writeOffset {s : State} (h : Inv s) (off : Nat) (v : Word) : Inv (writeOffset s off v) := by
  rcases writeOffset_cases s off v with e | e | e | e | e | e | ⟨hb, e⟩ | ⟨-, e⟩ <;> rw [e]
  exacts [h, h, h, h, h, h, inv_lost h hb, inv_startCommand h v]

/-- A host read of the window changes nothing the invariant speaks of. -/
theorem inv_hostReadWindow {s : State} (h : Inv s) (a n : Nat) : Inv (hostReadWindow s a n) := by
  unfold hostReadWindow
  dsimp only
  split <;> exact h

/-- A host write of the window lists bytes of the window only (R41). -/
theorem inv_hostWriteWindow {s : State} (h : Inv s) {a n : Nat} (ha : InWindow s.platform a n) (v : Nat) :
    Inv (hostWriteWindow s a n v) := by
  obtain ⟨hp, hst, hfresh, hw, hin⟩ := h
  refine ⟨hp, hst, hfresh, memWrite_wf hw a n v, fun c hc => ?_⟩
  rcases mem_memWrite hc with hc | hc
  · change s.platform.memBase ≤ c.1 ∧ c.1 < s.platform.memBase + s.platform.memSize
    omega
  · exact hin c hc

/-- Reset clears what the invariant speaks of, and draws bytes of the window only (R39, R116). -/
theorem inv_resetStep {s : State} (h : Inv s) : Inv (resetStep s) := by
  obtain ⟨hp, -, -, hw, hin⟩ := h
  exact ⟨hp, statusConsistent_of_noError rfl rfl nofun, fun _ _ => ⟨rfl, rfl, rfl, rfl, rfl, rfl⟩,
    drawSpan_wf hw _, fun c hc => (mem_drawSpan hc).elim And.right (hin c)⟩

/-- Settles O52: each of the six kinds of step keeps the invariant, which does not speak of the schedule. -/
theorem stepKeepsInvariant : Obligations.StepKeepsInvariant := by
  intro s t h ht
  have hs : ∀ es, Inv (s.setInputs es) := fun _ => h
  rcases step_cases ht with ⟨es, -, he⟩ | ⟨es, a, n, off, -, -, rfl⟩ | ⟨es, a, n, -, -, rfl⟩ |
    ⟨es, a, n, v, off, -, -, rfl⟩ | ⟨es, a, n, v, -, htarget, rfl⟩ | ⟨es, -, rfl⟩
  · exact inv_engineStep (hs es) he
  · exact h
  · exact inv_hostReadWindow (hs es) _ n
  · exact inv_writeOffset (hs es) off _
  · exact inv_hostWriteWindow (hs es) (targetOf_eq_window htarget) v
  · exact inv_resetStep (hs es)

/-! ### The platform and the constants -/

/-- The engine's turn does not change the platform (R117). -/
theorem platform_engineStep {s t : State} (ht : engineStep s = .next t) : t.platform = s.platform := by
  rcases commandFrame_of_engineStep ht with ⟨-, rfl⟩ | ⟨-, frame⟩
  · rfl
  · exact frame.platform

/-- A host write to the register block does not change the platform (R117). -/
theorem platform_writeOffset (s : State) (off : Nat) (v : Word) : (writeOffset s off v).platform = s.platform := by
  rcases writeOffset_cases s off v with e | e | e | e | e | e | ⟨-, e⟩ | ⟨-, e⟩ <;> rw [e] <;> rfl

/-- No step changes the platform (R8, R117). -/
theorem platform_step {s t : State} (ht : step s = .next t) : t.platform = s.platform := by
  rcases step_cases ht with ⟨es, -, he⟩ | ⟨es, a, n, off, -, -, rfl⟩ | ⟨es, a, n, -, -, rfl⟩ |
    ⟨es, a, n, v, off, -, -, rfl⟩ | ⟨es, a, n, v, -, -, rfl⟩ | ⟨es, -, rfl⟩
  · exact platform_engineStep (s := s.setInputs es) he
  · rfl
  · exact hostReadWindow_platform _ _ _
  · exact platform_writeOffset _ _ _
  · rfl
  · rfl

/-- Settles O53: no kind of step writes the platform, and the constants are literals. -/
theorem parametersAndConstantsNeverChange : Obligations.ParametersAndConstantsNeverChange := fun s t ht =>
  ⟨platform_step ht, fun _ hoff => readOffset_const_or_reserved t s (by omega)⟩

end Sys2Proof.Proofs
end

section
/-! PROOFS. What the scalar commands' results are beyond their definitions: where no stage saturates, their ranges and
their symmetries (42_polynomial.md, 43_reciprocal.md, 44_sigmoid_tanh.md). -/

namespace Sys2Proof.Proofs

open Sys2Proof Sys2Proof.Machine Sys2Proof.Stated

/-! ### POLY on [0, 1) -/

/-- A factor in [0, 1) moves a value toward 0, and not past it (R64). -/
theorem rounded_mul_toward_zero {y d : Int} (hd : 0 ≤ d) (hd' : d ≤ 2147483647) :
    min y 0 ≤ rounded (y * d) ∧ rounded (y * d) ≤ max y 0 := by
  rw [rounded]
  rcases le_total 0 y with hy | hy
  · have hlo : 0 ≤ y * d := Int.mul_nonneg hy hd
    have hhi : y * d ≤ y * 2147483647 := Int.mul_le_mul_of_nonneg_left hd' hy
    omega
  · have hlo : y * 2147483647 ≤ y * d := Int.mul_le_mul_of_nonpos_left hy hd'
    have hhi : y * d ≤ 0 := Int.mul_nonpos_of_nonpos_of_nonneg hy hd
    omega

/-- A multiply-accumulate step whose coefficient stays in range when the value so far is added is exact but for its
rounding (R78). -/
theorem hornerStep_eq_rounded {d y c : Int} (hd : 0 ≤ d) (hd' : d ≤ 2147483647) (lo : -2147483648 ≤ c + min y 0)
    (hi : c + max y 0 ≤ 2147483647) : hornerStep d y c = c + rounded (y * d) := by
  obtain ⟨rlo, rhi⟩ := rounded_mul_toward_zero (y := y) hd hd'
  exact hornerStep_eq (by rw [rounded] at rlo; omega) (by rw [rounded] at rhi; omega)

/-- Settles O12: with d in [0, 1) each product lies between 0 and the value so far, and the coefficients alternate in
sign and grow, so each sum stays in range. -/
theorem polyNeverSaturatesOnUnit : Obligations.PolyNeverSaturatesOnUnit := by
  intro s hd
  obtain ⟨-, hd'⟩ := s32_range s.latched.opa
  change argA s ≤ 2147483647 at hd'
  refine ⟨_, exec_poly s, ?_⟩
  dsimp only
  rw [toInt_bits32_horner, horner_eq]
  generalize argA s = d at hd hd'
  have r1 := rounded_mul_toward_zero (y := 14685184) hd hd'
  rw [hornerStep_eq_rounded (y := 14685184) hd hd' (by omega) (by omega)]
  have r2 := rounded_mul_toward_zero (y := -114217216 + rounded (14685184 * d)) hd hd'
  rw [hornerStep_eq_rounded (c := 514075392) hd hd' (by omega) (by omega)]
  generalize h1 : -114217216 + rounded (14685184 * d) = y1 at r2 ⊢
  have r3 := rounded_mul_toward_zero (y := 514075392 + rounded (y1 * d)) hd hd'
  rw [hornerStep_eq_rounded (c := -1488269056) hd hd' (by omega) (by omega)]
  generalize h2 : 514075392 + rounded (y1 * d) = y2 at r3 ⊢
  have r4 := rounded_mul_toward_zero (y := -1488269056 + rounded (y2 * d)) hd hd'
  rw [hornerStep_eq_rounded (c := 2147483647) hd hd' (by omega) (by omega)]
  exact ⟨by omega, rfl⟩

/-! ### ANTILOG -/

/-- The scaled magnitude of a value and of its negation are the same (R70). -/
theorem scaled_neg (x k : Int) : scaled (-x) k = scaled x k := by
  rw [scaled, scaled, satAbs_eq_min, satAbs_eq_min, neg_neg, max_comm]

/-- The exponent and the fraction of a reduction do not see the sign (R70). -/
theorem reduce_neg (x k : Int) : (reduce (-x) k).n = (reduce x k).n ∧ (reduce (-x) k).d = (reduce x k).d := by
  simp only [reduce, scaled_neg, and_self]

/-- Antilog is even (R81). -/
theorem antilog_neg (x : Int) : antilog (-x) = antilog x := by
  obtain ⟨hn, hd⟩ := reduce_neg x kSig
  rw [antilog, hn, hd, antilog]

/-- Antilog is 0 where the exponent shifts all 31 bits out (R80, R81). -/
theorem antilog_eq_zero {x : Int} (h : 31 ≤ (reduce x kSig).n) : antilog x = 0 := by
  obtain ⟨-, -, dlo, dhi⟩ := reduce_range x (k := kSig) (by decide) (by decide)
  obtain ⟨plo, phi⟩ := horner_range dlo (by omega)
  have hpow : (2 : Int) ^ 31 ≤ 2 ^ (reduce x kSig).n.toNat := by
    exact_mod_cast Nat.pow_le_pow_right (by decide) (by omega)
  exact Int.ediv_eq_zero_of_lt plo (by omega)

/-- Antilog of a value below one unit of the scale constant is ONE (R81). -/
theorem antilog_near_zero {x : Int} (h : x = 0 ∨ x = 1 ∨ x = -1) : antilog x = 2147483647 := by
  rcases h with rfl | rfl | rfl <;> decide

/-- Settles O14: the results read back as antilog and the exponent, and only the magnitude of the operand enters. -/
theorem antilogRangeAndEvenness : Obligations.AntilogRangeAndEvenness := by
  refine ⟨fun s t ht => ?_, fun s a t u ha ht hu => ?_⟩
  · rw [exec_antilog] at ht
    cases ht
    obtain ⟨lo, -⟩ := antilog_range (argA s)
    obtain ⟨hn, -⟩ := toInt_bits32_reduce_kSig (argA s)
    dsimp only
    rw [toInt_bits32_antilog, hn]
    exact ⟨lo, fun hfar => by rw [antilog_eq_zero hfar]; rfl, antilog_near_zero⟩
  · rw [exec_antilog] at ht hu
    cases ht
    cases hu
    dsimp only
    rw [argA_withOpa, ha, antilog_neg]

/-! ### RECIP on [0, 1) -/

/-- A value in range is not clamped. -/
theorem clamp32_id {v : Int} (lo : -2147483648 ≤ v) (hi : v ≤ 2147483647) : clamp32 v = v := by
  rw [← sat32_eq_clamp32, sat32_id lo hi]

/-- The correction of an estimate y by an error of at most ONE - y in the one direction and ONE in the other keeps it
between 0 and ONE (R85). -/
theorem correction_range {y e : Int} (hy : 0 ≤ y) (hy' : y ≤ 2147483647) (lo : -2147483647 ≤ e)
    (hi : e ≤ 2147483647 - y) : -y ≤ rounded (y * e) ∧ rounded (y * e) ≤ 2147483647 - y := by
  have hlo : y * -2147483647 ≤ y * e := Int.mul_le_mul_of_nonneg_left lo hy
  have hhi : y * e ≤ y * (2147483647 - y) := Int.mul_le_mul_of_nonneg_left hi hy
  have hcap : y * (2147483647 - y) ≤ 2147483647 * (2147483647 - y) :=
    Int.mul_le_mul_of_nonneg_right hy' (by omega)
  rw [rounded]
  omega

/-- On [0, 1) a Newton-Raphson step of an estimate in [0, ONE] is its formula without a clamp (R85). -/
theorem nrStep_eq_rounded {y x : Int} (hy : 0 ≤ y) (hy' : y ≤ 2147483647) (hx : 0 ≤ x) (hx' : x ≤ 2147483647) :
    nrStep y x = y + rounded (y * (2147483647 - y - rounded (y * x))) := by
  obtain ⟨plo, phi⟩ := rounded_mul_toward_zero (y := y) hx hx'
  obtain ⟨clo, chi⟩ := correction_range (e := 2147483647 - y - rounded (y * x)) hy hy' (by omega) (by omega)
  rw [nrStep_eq_clamp32, clamp32_id (v := rounded (y * x)) (by omega) (by omega),
    clamp32_id (v := 2147483647 - y - _) (by omega) (by omega), clamp32_id (v := rounded (y * _)) (by omega) (by omega),
    clamp32_id (by omega) (by omega)]

/-- Settles O16: the seed is in range, and an estimate in [0, ONE] is corrected inside [0, ONE]. -/
theorem recipNeverSaturatesOnUnit : Obligations.RecipNeverSaturatesOnUnit := by
  intro s hx
  obtain ⟨-, hx'⟩ := s32_range s.latched.opa
  change argA s ≤ 2147483647 at hx'
  refine ⟨_, _, _, exec_recip s, ?_⟩
  obtain ⟨h0, h1, h2⟩ := toInt_bits32_recip (argA s)
  obtain ⟨first, second⟩ := recip_steps (argA s)
  obtain ⟨lo0, hi0⟩ : 987842479 ≤ (recip (argA s)).y0 ∧ (recip (argA s)).y0 ≤ 2061584302 := seed_range hx hx'
  obtain ⟨⟨lo1, hi1⟩, lo2, -⟩ := recip_range hx hx'
  rw [h0, h1, h2]
  refine ⟨(seed_eq_clamp32 _).trans (clamp32_id (by omega) (by omega)), fun y y' h => ?_⟩
  rcases h with h | h <;> cases h
  · exact ⟨lo1, first.trans (nrStep_eq_rounded (by omega) (by omega) hx hx')⟩
  · exact ⟨lo2, second.trans (nrStep_eq_rounded lo1 hi1 hx hx')⟩

/-! ### Sigmoid and tanh -/

/-- SIG1's RES0 reads back as the sigmoid (R92). -/
theorem toInt_res0_sig1 {f : OutFmt} (hf : f.wellFormed = true) {s t : State} (h : exec (.sig1 f) s = .next t) :
    t.res0.toInt = sigQ31 (argA s) := by
  obtain ⟨l, hl⟩ := exists_layoutOf hf
  rw [exec_sig1 hl] at h
  cases h
  obtain ⟨lo, hi⟩ := sigQ31_range (argA s)
  exact toInt_bits32 (by omega) hi

/-- TANH1's RES0 reads back as the tanh (R93). -/
theorem toInt_res0_tanh1 {f : OutFmt} (hf : f.wellFormed = true) {s t : State} (h : exec (.tanh1 f) s = .next t) :
    t.res0.toInt = tanhQ31 (argA s) := by
  obtain ⟨l, hl⟩ := exists_layoutOf hf
  rw [exec_tanh1 hl] at h
  cases h
  obtain ⟨lo, hi⟩ := tanhQ31_range (argA s)
  exact toInt_bits32 (by omega) hi

/-- Settles O19: RES0 reads back as the activation, whose range is known. -/
theorem activationRanges : Obligations.ActivationRanges := by
  refine fun s t f hf => ⟨fun h => ?_, fun h => ?_⟩
  · rw [toInt_res0_sig1 hf h]
    exact sigQ31_range _
  · rw [toInt_res0_tanh1 hf h]
    exact tanhQ31_range _

/-- The sigmoid of a negative argument reflects that of the positive one around ONE (R89). -/
theorem sigQ31_neg {x : Int} (h : 0 < x) : sigQ31 (-x) = 2147483647 - sigQ31 x := by
  rw [sigQ31_eq, sigQ31_eq, antilog_neg, if_pos (by omega), if_neg (by omega)]

/-- The magnitude of the tanh does not see the sign (R90). -/
theorem tanhMag_neg (x : Int) : tanhMag (-x) = tanhMag x := by
  obtain ⟨hn, hd⟩ := reduce_neg x kTanh
  rw [tanhMag, tanhZ, hn, hd, tanhMag, tanhZ]

/-- The tanh is odd, at 0 because its magnitude is 0 there (R90, R96). -/
theorem tanhQ31_neg (x : Int) : tanhQ31 (-x) = -tanhQ31 x := by
  rw [tanhQ31_eq, tanhQ31_eq, tanhMag_neg]
  rcases lt_trichotomy x 0 with hx | rfl | hx
  · rw [if_neg (by omega), if_pos hx, neg_neg]
  · decide
  · rw [if_pos (by omega), if_neg (by omega)]

/-- Settles O20: RES0 reads back as the activation, and the magnitude of the operand alone enters but for the sign. -/
theorem activationSymmetry : Obligations.ActivationSymmetry := by
  refine fun s a f t u hf ha => ⟨fun hpos ht hu => ?_, fun ht hu => ?_⟩
  · rw [toInt_res0_sig1 hf ht, toInt_res0_sig1 hf hu, argA_withOpa, ha, sigQ31_neg hpos]
  · rw [toInt_res0_tanh1 hf ht, toInt_res0_tanh1 hf hu, argA_withOpa, ha, tanhQ31_neg]

end Sys2Proof.Proofs
end

section
/-! PROOFS. What a command reads and writes: its frame (R32, R35, R107), the operands it ignores (R59), and the one
form of the three kernels (R44, R45, R51, R104). -/

namespace Sys2Proof.Proofs

open Sys2Proof Sys2Proof.Machine Sys2Proof.Stated

/-! ### The frame of a command -/

/-- A state within a command's frame is the old one but for RES0 to RES2, memory, STATUS and the count of draws. -/
theorem eq_of_commandFrame {s t : State} (h : CommandFrame s t) :
    t = { s with
      res0 := t.res0, res1 := t.res1, res2 := t.res2, mem := t.mem, draws := t.draws, status := t.status } := by
  obtain ⟨hplatform, hcmd, hsrc, hdst, hlen, hopa, hopb, hlatched, hinputs, hreplies, hdisturbed, -⟩ := h
  cases t
  simp only at hplatform hcmd hsrc hdst hlen hopa hopb hlatched hinputs hreplies hdisturbed
  subst hplatform hcmd hsrc hdst hlen hopa hopb hlatched hinputs hreplies hdisturbed
  rfl

/-- Settles O35: every command answers a next state within its frame. -/
theorem commandFrameHolds : Obligations.CommandFrameHolds := by
  intro i s t h
  obtain ⟨u, hu, frame⟩ := exec_next i s
  obtain rfl : u = t := Host.Outcome.next.inj (hu.symm.trans h)
  exact eq_of_commandFrame frame

/-! ### The three kernels in one form -/

/-- The elements a kernel writes to OUT for the inputs xs (R94, R100). -/
def kernelOuts (i : Instr) (l : Layout) (xs : List Int) : List Int :=
  match i with
  | .vsigmoid _ => xs.map fun x => cvt (sigQ31 x) l
  | .vtanh _ => xs.map fun x => cvt (tanhQ31 x) l
  | .vsoftmax _ => softmaxOuts l xs
  | _ => []

/-- The results a kernel writes for the inputs xs: VSOFTMAX alone writes any (R94, R102). -/
def setKernelRes (i : Instr) (s : State) (xs : List Int) : State :=
  match i with
  | .vsoftmax _ => setSoftmaxRes s xs
  | _ => s

/-- What a kernel does once its checks pass (R94, R103). -/
def kernelBody (i : Instr) (s : State) (l : Layout) : State :=
  complete (setKernelRes i (storeOutputs s l (kernelOuts i l (inputElems s))) (inputElems s)) .noError

/-- A kernel runs its body behind the format and entry checks (R95, R96, R103). -/
theorem exec_kernel {i : Instr} {f : OutFmt} (h : IsKernel i f) (s : State) :
    exec i s = .next (runKernel f s (kernelBody i s)) := by
  rcases h with rfl | rfl | rfl <;> rfl

/-- A kernel writes as many elements as it reads (R94, R100). -/
theorem length_kernelOuts {i : Instr} {f : OutFmt} (h : IsKernel i f) (l : Layout) (s : State) :
    (kernelOuts i l (inputElems s)).length = (count s).toNat := by
  rcases h with rfl | rfl | rfl <;> simp [kernelOuts, softmaxOuts]

section setKernelRes

variable (i : Instr) (s : State) (xs : List Int)

@[simp] theorem setKernelRes_mem : (setKernelRes i s xs).mem = s.mem := by
  unfold setKernelRes; split <;> rfl
@[simp] theorem setKernelRes_draws : (setKernelRes i s xs).draws = s.draws := by
  unfold setKernelRes; split <;> rfl

end setKernelRes

/-- A command with an OP below 0x10 is scalar, one from 0x10 on a kernel (R57). -/
theorem isKernel_of_opcode {i : Instr} (h : 0x10 ≤ i.opcode) : ∃ f, IsKernel i f := by
  cases i with
  | vsigmoid f => exact ⟨f, .inl rfl⟩
  | vtanh f => exact ⟨f, .inr (.inl rfl)⟩
  | vsoftmax f => exact ⟨f, .inr (.inr rfl)⟩
  | _ => exact absurd h (by simp [Instr.opcode])

/-! ### What a command ignores -/

/-- Changing a state by g is carried through a scalar command: g leaves its operands, and keeps what it writes. -/
structure IgnoredByScalars (g : State → State) : Prop where
  opA : ∀ s, opA (g s) = opA s
  opB : ∀ s, opB (g s) = opB s
  complete : ∀ s c, complete (g s) c = g (complete s c)
  res0 : ∀ s v, (g s).setRes0 v = g (s.setRes0 v)
  res1 : ∀ s v, (g s).setRes1 v = g (s.setRes1 v)
  res2 : ∀ s v, (g s).setRes2 v = g (s.setRes2 v)

/-- A formatted operation carries a change that its format's run carries. -/
theorem withFormat_ignored {g : State → State} (hg : IgnoredByScalars g) (f : OutFmt) (s : State)
    {run run' : Layout → State} (hr : ∀ l, run' l = g (run l)) :
    withFormat f (g s) run' = g (withFormat f s run) := by
  unfold withFormat
  cases layoutOf f with
  | none => exact hg.complete s .fmt
  | some l => exact hr l

/-- A scalar command carries an ignored change to the next state. -/
theorem exec_scalar_ignored {g : State → State} (hg : IgnoredByScalars g) {i : Instr} (hi : i.opcode < 0x10)
    {s t : State} (h : exec i s = .next t) : exec i (g s) = .next (g t) := by
  have ⟨hA, hB, hc, h0, h1, h2⟩ := hg
  cases i with
  | vsigmoid f | vtanh f | vsoftmax f => exact absurd hi (by simp [Instr.opcode])
  | rshr =>
    cases h
    simp only [exec, execRshr, hA, hB, h0, hc, apply_ite g]
  | satcvt f =>
    cases h
    exact congrArg _ (withFormat_ignored hg f s fun l => by simp only [hA, h0, hc])
  | sig1 f | tanh1 f =>
    cases h
    exact congrArg _ (withFormat_ignored hg f s fun l => by simp only [completeActivation, hA, h0, h1, hc])
  | mulq31 | rredSig | rredTanh | poly | antilog | recip =>
    cases h
    simp only [exec, execMulq31, execRredSig, execRredTanh, execPoly, execAntilog, execRecip, completeReduced, hA, hB,
      h0, h1, h2, hc]

/-- Changing a state by g is carried through a kernel: g leaves its checks, its inputs and where OUT is, and keeps what
it writes. -/
structure IgnoredByKernels (g : State → State) : Prop where
  check : ∀ s l, checkKernel (g s) l = checkKernel s l
  inputs : ∀ s, inputElems (g s) = inputElems s
  disturbed : ∀ s, (g s).disturbed = s.disturbed
  stored : ∀ s w os, (g s).setMem (storeElems w (g s).mem (dstAddr (g s)) os) =
    g (s.setMem (storeElems w s.mem (dstAddr s) os))
  drawn : ∀ s l, drawSpan (g s) (outSpan (g s) l) = g (drawSpan s (outSpan s l))
  drawnAfterInputs : ∀ s l, drawSpan ((g s).addDraws (count (g s)).toNat) (outSpan (g s) l) =
    g (drawSpan (s.addDraws (count s).toNat) (outSpan s l))
  softmax : ∀ s xs, setSoftmaxRes (g s) xs = g (setSoftmaxRes s xs)
  complete : ∀ s c, complete (g s) c = g (complete s c)

/-- What becomes of OUT carries an ignored change, whether the kernel runs or is stopped (R45, R51). -/
theorem storing_ignored {g : State → State} (hg : IgnoredByKernels g) (s : State) (l : Layout) :
    storeNothing (g s) l = g (storeNothing s l) ∧ ∀ os, storeOutputs (g s) l os = g (storeOutputs s l os) := by
  simp only [storeNothing, storeOutputs, hg.disturbed, hg.drawn, hg.drawnAfterInputs, hg.stored, apply_ite g,
    implies_true, and_self]

/-- A kernel carries an ignored change to the next state. -/
theorem exec_kernel_ignored {g : State → State} (hg : IgnoredByKernels g) {i : Instr} {f : OutFmt}
    (hi : IsKernel i f) {s t : State} (h : exec i s = .next t) : exec i (g s) = .next (g t) := by
  have hst := storing_ignored hg s
  rw [exec_kernel hi] at h ⊢
  cases h
  refine congrArg _ (runKernel_congr g (hg.check s) (hg.complete s) (fun l c => ?stopped) fun l => ?body)
  case stopped => rw [(hst l).1, hg.complete]
  case body =>
    rcases hi with rfl | rfl | rfl <;>
      simp only [kernelBody, setKernelRes, hg.inputs, (hst l).2, hg.softmax, hg.complete]

/-- A change ignored by both is carried through any command. -/
theorem exec_ignored {g : State → State} (hs : IgnoredByScalars g) (hk : IgnoredByKernels g) {i : Instr} {s t : State}
    (h : exec i s = .next t) : exec i (g s) = .next (g t) := by
  by_cases hi : i.opcode < 0x10
  · exact exec_scalar_ignored hs hi h
  · obtain ⟨f, hf⟩ := isKernel_of_opcode (Nat.le_of_not_lt hi)
    exact exec_kernel_ignored hk hf h

/-- s with another memory and other SRC, DST, LEN, OPA, OPB, but for the latched OPA and OPB. -/
def withUnreadByScalars (m : Memory) (src dst len opa opb lsrc ldst llen : Word) (s : State) : State :=
  { s with
    mem := m, src := src, dst := dst, len := len, opa := opa, opb := opb,
    latched := { s.latched with src := lsrc, dst := ldst, len := llen } }

/-- s with other SRC, DST, LEN, OPA, OPB, but for the latched SRC, DST and LEN. -/
def withUnreadByKernels (src dst len opa opb lopa lopb : Word) (s : State) : State :=
  { s with
    src := src, dst := dst, len := len, opa := opa, opb := opb,
    latched := { s.latched with opa := lopa, opb := lopb } }

/-- A scalar command reads its latched OPA and OPB only (R59). -/
theorem withUnreadByScalars_ignored (m : Memory) (src dst len opa opb lsrc ldst llen : Word) :
    IgnoredByScalars (withUnreadByScalars m src dst len opa opb lsrc ldst llen) := by
  constructor <;> intros <;> rfl

/-- A kernel reads memory and its latched SRC, DST and LEN only (R59). -/
theorem withUnreadByKernels_ignored (src dst len opa opb lopa lopb : Word) :
    IgnoredByKernels (withUnreadByKernels src dst len opa opb lopa lopb) := by
  constructor <;> intros <;> rfl

/-- Settles O21: neither kind of command reads what the statement changes, and each carries it along. -/
theorem commandsReadOnlyTheirOperands : Obligations.CommandsReadOnlyTheirOperands := by
  refine ⟨fun i s t m src dst len opa opb lsrc ldst llen hi h => ?_,
    fun i s t src dst len opa opb lopa lopb hi h => ?_⟩
  · exact exec_scalar_ignored (withUnreadByScalars_ignored m src dst len opa opb lsrc ldst llen) hi h
  · obtain ⟨f, hf⟩ := isKernel_of_opcode hi
    exact exec_kernel_ignored (withUnreadByKernels_ignored src dst len opa opb lopa lopb) hf h

/-! ### What a command writes in memory -/

/-- A scalar command that completes leaves the memory as it was (R45). -/
theorem mem_exec_scalar {i : Instr} (hi : i.opcode < 0x10) {s t : State} (h : exec i s = .next t) :
    t.mem = s.mem := by
  have hfmt : ∀ (f : OutFmt) (run : Layout → State), (∀ l, (run l).mem = s.mem) →
      (withFormat f s run).mem = s.mem := fun f run hr => by
    rcases withFormat_cases f s run with ⟨-, e⟩ | ⟨l, -, e⟩ <;> rw [e]
    · rfl
    · exact hr l
  cases i with
  | vsigmoid f | vtanh f | vsoftmax f => exact absurd hi (by simp [Instr.opcode])
  | rshr => cases h; split <;> rfl
  | satcvt f | sig1 f | tanh1 f => cases h; exact hfmt f _ fun _ => rfl
  | mulq31 | rredSig | rredTanh | poly | antilog | recip => cases h; rfl

/-- A kernel's body leaves every byte outside OUT (R45, R51). -/
theorem readByte_kernelBody_outside {i : Instr} {f : OutFmt} (hi : IsKernel i f) {s : State}
    (hw : memWf s.mem = true) {l : Layout} (hl : layoutOf f = some l) {b : Nat}
    (hb : OutsideOut s (elemBytes f) b) : readByte (kernelBody i s l).mem b = readByte s.mem b := by
  rw [kernelBody, complete_mem, setKernelRes_mem]
  exact readByte_storeOutputs_outside hw l (length_kernelOuts hi l s) (layoutOf_width hl ▸ hb)

/-- A byte outside OUT is none of the model's OUT span (R45). -/
theorem not_inSpan_of_outsideOut {f : OutFmt} {l : Layout} (hl : layoutOf f = some l) {s : State} {b : Nat}
    (hb : OutsideOut s (elemBytes f) b) : ¬ InSpan (outSpan s l) b := by
  rw [← layoutOf_width hl] at hb
  rintro ⟨hlo, hhi⟩
  exact hb.elim (Nat.not_lt_of_le hlo) (Nat.not_le_of_lt hhi)

/-- A kernel leaves every byte outside OUT, however it completes (R45, R51). -/
theorem readByte_runKernel_outside {i : Instr} {f : OutFmt} (hi : IsKernel i f) {s : State}
    (hw : memWf s.mem = true) {b : Nat} (hb : OutsideOut s (elemBytes f) b) :
    readByte (runKernel f s (kernelBody i s)).mem b = readByte s.mem b := by
  rcases runKernel_cases f s (kernelBody i s) with ⟨-, e⟩ | ⟨l, hl, -, e⟩ | ⟨l, hl, -, e⟩ <;> rw [e]
  · rfl
  · rw [complete_mem]
    rcases storeNothing_cases s l with hn | hn <;> rw [hn]
    exact readByte_drawSpan_outside hw fun hin => not_inSpan_of_outsideOut hl hb hin.1
  · exact readByte_kernelBody_outside hi hw hl hb

/-- Settles O29: a scalar command writes no memory, an undisturbed one that fails changes STATUS alone, and a kernel
stores or draws its OUT at most. -/
theorem engineWritesOnlyOut : Obligations.EngineWritesOnlyOut := by
  refine fun i s t hw h => ⟨fun hi => mem_exec_scalar hi h, fun hc hd => ?_, fun f hf b hb => ?_⟩
  · obtain ⟨u, hu, completes⟩ := exec_completesWith i s
    obtain rfl : u = t := Host.Outcome.next.inj (hu.symm.trans h)
    rw [completes.code] at hc
    rw [completes.undisturbed hc hd]
    rfl
  · rw [exec_kernel hf] at h
    cases h
    exact readByte_runKernel_outside hf hw hb

end Sys2Proof.Proofs
end

section
/-! PROOFS. The kernels over memory: what they read of it and what it holds afterwards (20_memory.md R44, R45, R51;
45_softmax.md R103). -/

namespace Sys2Proof.Proofs

open Sys2Proof Sys2Proof.Machine Sys2Proof.Stated

/-! ### A kernel reads IN only -/

/-- Two memories that agree on IN hold the same input elements (R44, R45). -/
theorem inputElems_congr {s : State} {m : Memory} (hd : s.disturbed = false)
    (h : ∀ b, argSrc s ≤ b → b < argSrc s + 4 * (argN s).toNat → readByte m b = readByte s.mem b) :
    inputElems { s with mem := m } = inputElems s := by
  rw [inputElems_undisturbed hd, inputElems_undisturbed (s := { s with mem := m }) hd]
  refine List.map_congr_left fun i hi => ?_
  have hlt : i < (argN s).toNat := List.mem_range.mp hi
  have hread : memRead m (argSrc s + 4 * i) 4 = memRead s.mem (argSrc s + 4 * i) 4 :=
    memRead_congr fun b hlo hhi => h b (by omega) (by omega)
  simp only [inElem]
  rw [← hread]
  rfl

/-- Writing a kernel's results and completing carries another memory along. -/
theorem complete_setKernelRes_setMem (i : Instr) (s : State) (m : Memory) (xs : List Int) (c : ErrCode) :
    complete (setKernelRes i (s.setMem m) xs) c = (complete (setKernelRes i s xs) c).setMem m := by
  unfold setKernelRes
  split <;> rfl

/-- An undisturbed kernel's body stores its outputs in the window, and else does what it would on any memory (R94,
R103). -/
theorem kernelBody_undisturbed {s : State} (hd : s.disturbed = false) (i : Instr) (l : Layout) (m : Memory) :
    kernelBody i (s.setMem m) l =
      (complete (setKernelRes i s (inputElems (s.setMem m))) .noError).setMem
        (storeElems l.width m (dstAddr s) (kernelOuts i l (inputElems (s.setMem m)))) := by
  rw [kernelBody, storeOutputs_undisturbed (s := s.setMem m) hd, complete_setKernelRes_setMem,
    complete_setKernelRes_setMem]
  rfl

/-- Settles O28: the checks do not look at the memory and the inputs are the same, so the two runs write the same
results and the same bytes to OUT. -/
theorem engineReadsOnlyIn : Obligations.EngineReadsOnlyIn := by
  intro i f s m t u hk hd hw hw' hagree ht hu
  have hin : inputElems (s.setMem m) = inputElems s := inputElems_congr hd hagree
  change exec i (s.setMem m) = .next u at hu
  rw [exec_kernel hk] at ht hu
  cases ht
  cases hu
  rcases runKernel_cases f s (kernelBody i s) with ⟨rfl, e⟩ | ⟨l, hl, hc, e⟩ | ⟨l, hl, hc, e⟩ <;> rw [e]
  · exact ⟨rfl, fun hcode => nomatch hcode⟩
  · rw [runKernel_error hl (s := s.setMem m) hc, storeNothing_undisturbed hd,
      storeNothing_undisturbed (s := s.setMem m) hd]
    exact ⟨rfl, fun hcode => absurd hcode hc⟩
  · have hbody : kernelBody i s l = _ := kernelBody_undisturbed hd i l s.mem
    rw [runKernel_ok hl (s := s.setMem m) hc, hbody, kernelBody_undisturbed hd, hin]
    refine ⟨rfl, fun _ b hb => readByte_storeElems_same hw' hw ?_⟩
    rw [length_kernelOuts hk, layoutOf_width hl]
    rw [OutsideOut] at hb
    change argDst s ≤ b ∧ b < argDst s + elemBytes f * (argN s).toNat
    omega

/-! ### A kernel whose buffers the host wrote -/

/-- A disturbed kernel leaves the memory and the count of draws as drawing OUT does, from some draw on (R51). -/
theorem mem_draws_runKernel_disturbed {s : State} (hd : s.disturbed = true) {f : OutFmt} {l : Layout}
    (hl : layoutOf f = some l) (i : Instr) : ∃ n,
      (runKernel f s (kernelBody i s)).mem = (drawSpan (s.addDraws n) (outSpan s l)).mem ∧
      (runKernel f s (kernelBody i s)).draws = (drawSpan (s.addDraws n) (outSpan s l)).draws := by
  by_cases hc : checkKernel s l = .noError
  · refine ⟨(count s).toNat, ?_⟩
    rw [runKernel_ok hl hc, kernelBody, storeOutputs_drawn hd]
    simp only [complete_mem, complete_draws, setKernelRes_mem, setKernelRes_draws, and_self]
  · refine ⟨0, ?_⟩
    rw [runKernel_error hl hc, storeNothing_drawn hd]
    exact ⟨rfl, rfl⟩

/-- A byte of OUT as the statements say it is one of the model's OUT span (R45). -/
theorem inSpan_of_not_outsideOut {f : OutFmt} {l : Layout} (hl : layoutOf f = some l) {s : State} {b : Nat}
    (hb : ¬ OutsideOut s (elemBytes f) b) : InSpan (outSpan s l) b := by
  rw [← layoutOf_width hl, OutsideOut, not_or, Nat.not_lt, Nat.not_le] at hb
  exact hb

/-- An error completion within its frame is the failed state but for memory and draws (R107). -/
theorem CompletesWith.eq_failed {s t : State} {c : ErrCode} (h : CompletesWith s t c)
    (hc : t.status.code ≠ .noError) : t = { failed s t.status.code with mem := t.mem, draws := t.draws } := by
  obtain ⟨hst, herr, -⟩ := h
  rw [hst] at hc
  have ht := herr hc
  rw [hst] at ht
  rw [ht]
  cases c with
  | noError => exact absurd rfl hc
  | _ => rfl

/-- Settles O57: OUT is drawn whether the checks stop the kernel or not, and the code is that of the checks. -/
theorem disturbedOutIsAnyValue : Obligations.DisturbedOutIsAnyValue := by
  intro i f s hk hf hd hw
  obtain ⟨l, hl⟩ := exists_layoutOf hf
  obtain ⟨t, ht, completes⟩ := exec_completesWith i s
  obtain ⟨n, hmem, hdraws⟩ := mem_draws_runKernel_disturbed hd hl i
  have hrun := ht
  rw [exec_kernel hk] at hrun
  injection hrun with hrun
  rw [hrun] at hmem hdraws
  refine ⟨t, s.draws + n, (clipToWindow s.platform (outSpan s l)).lo, ht, ?code, Nat.le_add_right _ _,
    completes.eq_failed, fun b hb hlo hhi => ?drawn, fun b hb => ?outside⟩
  case code => rw [completes.code, commandError_kernel hk, formatError_of_layoutOf hl]
  case drawn =>
    obtain ⟨hle, hlt, hread⟩ := readByte_drawSpan_inside (s := s.addDraws n) hw (inSpan_of_not_outsideOut hl hb)
      ⟨hlo, hhi⟩
    rw [hmem, hdraws]
    exact ⟨hle, Nat.add_lt_add_left hlt _, hread⟩
  case outside =>
    rw [hmem]
    refine readByte_drawSpan_outside (s := s.addDraws n) hw fun ⟨hin, hlo, hhi⟩ => ?_
    rcases hb with hb | hb
    · exact not_inSpan_of_outsideOut hl hb hin
    · exact hb.elim (Nat.not_lt_of_le hlo) (Nat.not_le_of_lt hhi)

/-- A word is below 256^4 (R7). -/
theorem u32_lt (v : Word) : u32 v < 256 ^ 4 := v.isLt

/-- An element stored in IN is the element read there (R44). -/
theorem inElem_storeElems {s : State} (hw : memWf s.mem = true) {xs : List Int} {i : Nat} {x : Int}
    (hi : xs[i]? = some x) (lo : -2147483648 ≤ x) (hi' : x ≤ 2147483647) :
    inElem { s with mem := storeElems 4 s.mem (argSrc s) xs, disturbed := false } i = x := by
  have hread := memRead_storeElems (w := 4) hw (a := argSrc s) hi
  rw [Nat.mod_eq_of_lt (u32_lt _)] at hread
  refine (congrArg (fun n => (BitVec.ofNat 32 n).toInt) hread).trans ?_
  rw [u32, BitVec.ofNat_toNat, BitVec.setWidth_eq]
  exact toInt_bits32 lo hi'

/-- s undisturbed, with the input elements its kernel reads stored in IN (R51: "for some input"). -/
def withInputsStored (s : State) : State :=
  { s with mem := storeElems 4 s.mem (argSrc s) (inputElems s), disturbed := false }

/-- Storing the input elements in IN makes them the elements of the window (R44). -/
theorem inputElems_withInputsStored {s : State} (hw : memWf s.mem = true) :
    inputElems (withInputsStored s) = inputElems s := by
  refine (inputElems_undisturbed (s := withInputsStored s) rfl).trans (List.map_congr_left fun i hi => ?_)
  obtain ⟨lo, hi'⟩ := inputElem_range s i
  exact inElem_storeElems hw (inputElems_getElem? (List.mem_range.mp hi)) lo hi'

/-- A disturbed kernel of the map form that passes its checks writes no result (R51, R94). -/
theorem mapKernel_disturbed {s : State} {f : OutFmt} {l : Layout} (hl : layoutOf f = some l)
    (hc : checkKernel s l = .noError) (hd : s.disturbed = true) (g : Int → Int) :
    mapKernel g f s =
      { s with mem := (mapKernel g f s).mem, draws := (mapKernel g f s).draws, status := okStatus s.status } := by
  rw [mapKernel, runKernel_ok hl hc, storeOutputs_drawn hd]
  rfl

/-- VSOFTMAX that passes its checks writes the results of its inputs, whether or not the host disturbed it (R51,
R102). -/
theorem exec_vsoftmax_ok {s : State} {f : OutFmt} {l : Layout} (hl : layoutOf f = some l)
    (hc : checkKernel s l = .noError) : ∃ t, exec (.vsoftmax f) s = .next t ∧
      t.res0 = bits32 (maxElem (inputElems s)) ∧ t.res1 = bits32 (sumRecip (expSum (inputElems s))) ∧
      t.res2 = bits32 (sumExp (expSum (inputElems s))) ∧ t.status = okStatus s.status := by
  refine ⟨_, congrArg Host.Outcome.next (runKernel_ok hl hc _), rfl, rfl, rfl, ?_⟩
  rw [complete_status, setSoftmaxRes]
  simp only [State.setRes2_status, State.setRes1_status, State.setRes0_status, storeOutputs_status]
  rfl

/-- Settles O30: a disturbed kernel's inputs are some words, and storing those words in IN makes a memory on which the
undisturbed command has the same inputs. -/
theorem disturbedKernelCompletes : Obligations.DisturbedKernelCompletes := by
  intro s f hd hf hw hentry
  obtain ⟨l, hl⟩ := exists_layoutOf hf
  have hc : checkKernel s l = .noError := (checkKernel_eq_entryError hl s).trans hentry
  refine ⟨⟨_, rfl, mapKernel_disturbed hl hc hd _⟩, ⟨_, rfl, mapKernel_disturbed hl hc hd _⟩, ?_⟩
  obtain ⟨t, ht, ht0, ht1, ht2, hst⟩ := exec_vsoftmax_ok hl hc
  obtain ⟨u, hu, hu0, hu1, hu2, -⟩ := exec_vsoftmax_ok (s := withInputsStored s) hl hc
  rw [inputElems_withInputsStored hw] at hu0 hu1 hu2
  refine ⟨t, u, _, storeElems_wf hw _ _, ht, hu, ?_⟩
  rw [hu0, hu1, hu2, ← ht0, ← ht1, ← ht2, ← hst]
  exact commandFrameHolds _ s t ht

/-! ### Softmax's outputs -/

/-- A Q31 value that is not negative converts to a value that is not negative and fits the format (R65). -/
theorem converted_nonneg {f : OutFmt} (hf : f.wellFormed = true) {y : Int} (lo : 0 ≤ y) (hi : y ≤ 2147483647) :
    0 ≤ converted f y ∧ 2 * converted f y < 256 ^ elemBytes f := by
  cases f with
  | reserved => cases hf
  | q7 | q15 | q16_15 => simp only [converted, clamp, elemBytes]; omega

/-- Element i of OUT after VSOFTMAX is o_i, converted (R100). -/
theorem outElem_vsoftmax {s t : State} {f : OutFmt} (h : Ready s f) (ht : exec (.vsoftmax f) s = .next t) {i : Nat}
    (hi : i < (argN s).toNat) : outElem t (elemBytes f) i =
      (bits32 (converted f (softmaxQ31 (inputElems s) (inElem s i)))).toNat % 256 ^ elemBytes f := by
  have ⟨hf, _, _, hw⟩ := h
  obtain ⟨l, hl⟩ := exists_layoutOf hf
  rw [exec_vsoftmax_ready hl h] at ht
  cases ht
  rw [← layoutOf_width hl]
  exact memRead_storeElems hw (softmaxOuts_getElem? hl h hi)

/-- The word of a 32-bit value that is not negative is that value. -/
theorem toNat_bits32 {v : Int} (lo : 0 ≤ v) (hi : v ≤ 4294967295) : ((bits32 v).toNat : Int) = v := by
  rw [bits32, BitVec.toNat_ofInt]
  omega

/-- Settles O26: o_i is a Q31 value that is not negative, so its conversion is in the lower half of the format's
words. -/
theorem softmaxOutputsNonnegative : Obligations.SoftmaxOutputsNonnegative := by
  intro s t f h ht i hi
  have ⟨hf, _, _, _⟩ := h
  obtain ⟨lo, hi'⟩ := softmaxQ31_range (inputElems_ne_nil h) (inElem s i)
  obtain ⟨clo, chi⟩ := converted_nonneg hf lo hi'
  have hcap : (256 : Int) ^ elemBytes f ≤ 4294967296 := by cases f <;> simp [elemBytes]
  have hword := toNat_bits32 clo (by omega)
  rw [outElem_vsoftmax h ht hi]
  refine lt_of_le_of_lt (Nat.mul_le_mul_left 2 (Nat.mod_le _ _)) ?_
  zify
  rwa [hword]

/-! ### Softmax of shifted inputs -/

/-- e_i sees the difference to the maximum only (R98). -/
theorem expElem_shift (m x c : Int) : expElem (m + c) (x + c) = expElem m x := by
  rw [expElem, add_sub_add_right_eq_sub, expElem]

/-- S does not change when every input is shifted (R98). -/
theorem expSum_shift {xs : List Int} (h : xs ≠ []) (c : Int) : expSum (xs.map (· + c)) = expSum xs := by
  rw [expSum, expSum, maxElem_shift h, List.map_map]
  exact congrArg List.sum (List.map_congr_left fun x _ => expElem_shift _ x c)

/-- o_i does not change when every input is shifted (R100). -/
theorem softmaxQ31_shift {xs : List Int} (h : xs ≠ []) (x c : Int) :
    softmaxQ31 (xs.map (· + c)) (x + c) = softmaxQ31 xs x := by
  rw [softmaxQ31, softmaxQ31, expSum_shift h, maxElem_shift h, expElem_shift]

/-- The maximum of a kernel's inputs is a 32-bit value, so RES0 reads back as it (R97, R102). -/
theorem toInt_bits32_maxElem {s : State} {f : OutFmt} (h : Ready s f) :
    (bits32 (maxElem (inputElems s))).toInt = maxElem (inputElems s) := by
  obtain ⟨⟨i, -, hmax⟩, -⟩ := maxElem_inputElems h
  rw [← hmax]
  exact (congrArg BitVec.toInt (bits32_s32 _)).trans rfl

/-- Settles O27: the maximum shifts with the inputs, and all else sees their differences only. -/
theorem softmaxShiftInvariant : Obligations.SoftmaxShiftInvariant := by
  intro s m f c t u h hm hshift ht hu
  have ⟨hf, hentry, hd, _⟩ := h
  obtain ⟨l, hl⟩ := exists_layoutOf hf
  have h' : Ready { s with mem := m } f := ⟨hf, hentry, hd, hm⟩
  have hne := inputElems_ne_nil h
  have hin : inputElems { s with mem := m } = (inputElems s).map (· + c) := by
    rw [inputElems_undisturbed hd, inputElems_undisturbed (s := { s with mem := m }) hd, List.map_map]
    exact List.map_congr_left fun i hi => hshift i (List.mem_range.mp hi)
  have hmax := toInt_bits32_maxElem h
  have hmax' := toInt_bits32_maxElem h'
  have hout : ∀ i, i < (argN s).toNat → outElem u (elemBytes f) i = outElem t (elemBytes f) i := fun i hi => by
    rw [outElem_vsoftmax h ht hi, outElem_vsoftmax h' hu hi, hin, hshift i hi, softmaxQ31_shift hne]
  rw [exec_vsoftmax_ready hl h] at ht
  rw [exec_vsoftmax_ready hl h'] at hu
  cases ht
  cases hu
  refine ⟨?_, ?_, ?_, hout⟩
  · dsimp only
    rw [hmax, hmax', hin, maxElem_shift hne]
  · dsimp only
    rw [hin, expSum_shift hne]
  · dsimp only
    rw [hin, expSum_shift hne]

end Sys2Proof.Proofs
end

section
/-! PROOFS. The host's accesses: to an aligned word of the register block (R19 to R36), to the data window (R41, R51),
and those QACT gives no meaning (R19, R42); and what an abandoned command's OUT holds after reset (R52, R116). -/

namespace Sys2Proof.Proofs

open Sys2Proof Sys2Proof.Machine Sys2Proof.Safety Sys2Proof.Stated

/-! ### The register block -/

/-- Settles O41: the access reaches the register at its offset, whose value is the map's. -/
theorem registerBlockReads : Obligations.RegisterBlockReads := by
  intro s a off es hat hoff hi
  rw [step_readOffset hat hi, readOffset_eq_offsetValue _ hoff]
  rfl

/-- The fields of STATUS at their bits, and 0 between them (R22, R105). -/
theorem statusWord_fields (st : Status) :
    (statusWord st).getLsbD 0 = st.busy ∧ (statusWord st).getLsbD 1 = st.done ∧
      (statusWord st).getLsbD 2 = st.err ∧ (statusWord st).getLsbD 3 = st.lost ∧ (statusWord st).extractLsb' 4 4 = 0 ∧
      (statusWord st).extractLsb' 12 20 = 0 ∧ ((statusWord st).extractLsb' 8 4).toNat = codeNumber st.code := by
  obtain ⟨busy, done, err, lost, code⟩ := st
  cases code <;> revert busy done err lost <;> decide

/-- Settles O42: the read gives STATUS's word, which holds its fields at their bits. -/
theorem statusReadsItsFields : Obligations.StatusReadsItsFields := fun s _ _ hat hi =>
  ⟨statusWord s.status, step_readOffset hat hi, statusWord_fields s.status⟩

/-- Where the map has no register a write is ignored (R34). -/
theorem offsetWritten_of_regAt_none (s : State) (v : Word) {off : Nat} (h : regAt off = none) :
    offsetWritten s v off = s := by
  unfold offsetWritten
  split
  case h_7 => rfl
  all_goals cases h

/-- A host write at an offset, as the map says it (R19, R21, R26, R28 to R31, R34, R36). -/
theorem writeOffset_eq_offsetWritten (s : State) (off : Nat) (v : Word) :
    writeOffset s off v = offsetWritten s v off := by
  unfold writeOffset
  cases hr : regAt off with
  | none => exact (offsetWritten_of_regAt_none s v hr).symm
  | some r =>
    obtain rfl := eq_regOffset_of_regAt hr
    cases r <;> rfl

/-- Settles O43: the access reaches the register at its offset, and the write there is the map's. -/
theorem registerBlockWrites : Obligations.RegisterBlockWrites := by
  intro s a off v es hat hi
  rw [step_writeOffset hat hi, writeOffset_eq_offsetWritten]
  rfl

/-! ### Which accesses have a meaning -/

/-- An access that touches the register block and is not one aligned word of it is refused by R19. -/
theorem targetOf_badRegister {p : Platform} {a n : Nat} (ht : a < p.regBase + 256 ∧ p.regBase < a + n)
    (hn : ¬ (n = 4 ∧ p.regBase ≤ a ∧ 4 ∣ a - p.regBase)) : targetOf p a n = .badRegister := by
  rw [Nat.dvd_iff_mod_eq_zero] at hn
  unfold targetOf
  rw [if_pos ht, if_neg hn]

/-- An access of bytes that touches the register block nowhere and leaves the window is outside QACT (R42). -/
theorem targetOf_outside {p : Platform} {a n : Nat} (ht : ¬ (a < p.regBase + 256 ∧ p.regBase < a + n)) (hn : n ≠ 0)
    (hw : ¬ (p.memBase ≤ a ∧ a + n ≤ p.memBase + p.memSize)) : targetOf p a n = .outside := by
  unfold targetOf
  rw [if_neg ht, if_neg (not_or.mpr ⟨hn, hw⟩)]

/-- A host access to a target that has no meaning is refused by that target's rule. -/
theorem hostStep_refused {s : State} {act : HostAction} {a : Word} {n : Nat}
    (hact : act = .read a n ∨ ∃ v, act = .write a n v) :
    (targetOf s.platform a.toNat n = .badRegister → hostStep act s = .refused .registerAccess) ∧
      (targetOf s.platform a.toNat n = .outside → hostStep act s = .refused .outsideQact) := by
  rcases hact with rfl | ⟨v, rfl⟩ <;>
    exact ⟨fun h => by simp only [hostStep, u32, h], fun h => by simp only [hostStep, u32, h]⟩

/-- Settles O44: the target of such an access is one of the two without a meaning. -/
theorem unlawfulAccessRefused : Obligations.UnlawfulAccessRefused := by
  intro s act a n es hact hi
  obtain ⟨hbad, hout⟩ := hostStep_refused (s := s.setInputs es) hact
  rw [step_host hi]
  exact ⟨fun ht hn => hbad (targetOf_badRegister ht hn), fun ht hn hw => hout (targetOf_outside ht hn hw)⟩

/-- A lawful host access answers a next state (R109). -/
theorem hostStep_lawful {s : State} {act : HostAction} (h : LawfulAccess s.platform act) :
    ∃ t, hostStep act s = .next t := by
  cases act with
  | read a n | write a n v =>
    obtain ⟨hbad, hout⟩ := h
    unfold hostStep
    dsimp only
    cases ht : targetOf s.platform (u32 a) n with
    | register off => exact ⟨_, rfl⟩
    | window => exact ⟨_, rfl⟩
    | badRegister => exact absurd ht hbad
    | outside => exact absurd ht hout

/-- The engine's turn answers a next state (R109). -/
theorem engineStep_next (s : State) : ∃ t, engineStep s = .next t := by
  cases hb : s.status.busy with
  | true => exact (engineStep_busy hb).imp fun _ h => h.1
  | false => exact ⟨s, by simp [engineStep, hb]⟩

/-- Settles O45: the engine's turn and a reset always answer a next state, and a host access does when it is lawful. -/
theorem lawfulStepNeverStops : Obligations.LawfulStepNeverStops := by
  intro s h
  cases hi : s.inputs with
  | nil => rw [step_nil hi]; exact engineStep_next s
  | cons e es =>
    have he : LawfulEvent s.platform e := h e (by simp [hi])
    cases e with
    | engine => rw [step_engine hi]; exact engineStep_next _
    | reset => exact ⟨_, step_reset hi⟩
    | host act => rw [step_host hi]; exact hostStep_lawful (s := s.setInputs es) he

/-! ### The data window -/

/-- An access of bytes inside the window reaches it (R41, R47). -/
theorem targetOf_atWindow {s : State} {a : Word} {n : Nat} (h : AtWindow s a n) :
    targetOf s.platform (u32 a) n = .window := by
  obtain ⟨hp, hn, hlo, hhi⟩ := h
  exact targetOf_window hp hn (.inr ⟨hlo, hhi⟩)

/-- A running kernel has the layout of its format, since no word decodes to the reserved one (R43, R58). -/
theorem exists_runningLayout {s : State} {i : Instr} {f : OutFmt} (hb : s.status.busy = true)
    (hd : decode s.latched.cmd = .ok i) (hk : IsKernel i f) :
    ∃ l, layoutOf f = some l ∧ runningLayout s = some l := by
  obtain ⟨hwf, -⟩ := encode_of_decode_ok hd
  have hf : f.wellFormed = true := by rcases hk with rfl | rfl | rfl <;> exact hwf
  obtain ⟨l, hl⟩ := exists_layoutOf hf
  exact ⟨l, hl, runningLayout_eq_some_iff.mpr ⟨hb, i, f, hd, hk, hl⟩⟩

/-- The bytes of the model's OUT span are those of OUT as the statements say it (R45, R51). -/
theorem inSpan_runningOut_iff {s : State} {b : Nat} : InSpan (runningOut s) b ↔ RunningOutByte s b := by
  refine ⟨runningOutByte_of_inSpan, ?_⟩
  rintro ⟨hb, i, f, hd, hk, hin⟩
  obtain ⟨l, hl, hrun⟩ := exists_runningLayout hb hd hk
  rw [runningOut, hrun]
  rwa [← layoutOf_width hl] at hin

/-- The bytes of the model's IN span are those of IN as the statements say it (R45, R51). -/
theorem inSpan_runningIn_iff {s : State} {b : Nat} : InSpan (runningIn s) b ↔ RunningInByte s b := by
  unfold runningIn
  constructor
  · intro h
    cases hl : runningLayout s with
    | none =>
      rw [hl] at h
      exact absurd h.2 (Nat.not_lt_zero b)
    | some l =>
      rw [hl] at h
      obtain ⟨hb, i, f, hd, hk, -⟩ := runningLayout_eq_some_iff.mp hl
      exact ⟨hb, i, f, hd, hk, h⟩
  · rintro ⟨hb, i, f, hd, hk, hin⟩
    obtain ⟨l, -, hrun⟩ := exists_runningLayout hb hd hk
    rw [hrun]
    exact hin

/-- A host write disturbs the running command exactly when it meets its IN or OUT (R51). -/
theorem hostWriteWindow_disturbed_iff (s : State) (a n v : Nat) : (hostWriteWindow s a n v).disturbed = true ↔
    s.disturbed = true ∨ ∃ b, a ≤ b ∧ b < a + n ∧ (RunningInByte s b ∨ RunningOutByte s b) := by
  simp only [hostWriteWindow, State.setDisturbed_disturbed, Bool.or_eq_true, decide_eq_true_eq, meets_iff,
    inSpan_runningIn_iff, inSpan_runningOut_iff, ← exists_or, and_or_left]

/-- Settles O46: the access reaches the window, where the write stores its bytes and marks the command it meets. -/
theorem hostWindowWrite : Obligations.HostWindowWrite := by
  intro s a n v es hat hw hi
  refine ⟨hostWriteWindow (s.setInputs es) (u32 a) n v, ?_, rfl, fun j hj => readByte_memWrite_inside hw hj,
    fun b hb => readByte_memWrite_outside hw hb, hostWriteWindow_disturbed_iff (s.setInputs es) _ n v⟩
  rw [step_host hi]
  simp only [hostStep, State.setInputs_platform, targetOf_atWindow hat]

/-- A byte the host reads is the stored one, or a draw where it is of the running command's OUT (R51). -/
theorem hostByte_cases (s : State) (a k : Nat) :
    (¬ RunningOutByte s a → hostByte s a k = readByte s.mem a) ∧
      (RunningOutByte s a → hostByte s a k = Config.freeByte k) := by
  simp only [← inSpan_runningOut_iff, hostByte]
  exact ⟨fun h => if_neg h, fun h => if_pos h⟩

/-- A host read of the window answers its bytes, and takes a draw for each while BUSY (R51, log 5). -/
theorem hostReadWindow_eq (s : State) (a n : Nat) : hostReadWindow s a n =
    { s with
      replies := .mem n (hostBytes s a n s.draws) :: s.replies,
      draws := if s.status.busy then s.draws + n else s.draws } := by
  unfold hostReadWindow
  dsimp only
  split <;> rfl

/-- Settles O47: byte j of the answer is the stored byte or draw s.draws + j, and OUT has bytes while BUSY only, when
the read takes n draws. -/
theorem hostWindowRead : Obligations.HostWindowRead := by
  intro s a n es hat hi
  refine ⟨hostReadWindow (s.setInputs es) (u32 a) n, hostBytes (s.setInputs es) (u32 a) n s.draws, ?step, ?frame,
    hostBytes_lt _ _ _ _, fun hb => ?idle, fun j hj => ?byte⟩
  case step =>
    rw [step_host hi]
    simp only [hostStep, State.setInputs_platform, targetOf_atWindow hat]
  case frame => rw [hostReadWindow_eq]; rfl
  case idle => rw [hostReadWindow_eq]; exact if_neg (by simp [hb])
  case byte =>
    obtain ⟨hstored, hdrawn⟩ := hostByte_cases (s.setInputs es) (u32 a + j) (s.draws + j)
    rw [hostBytes_byte _ hj]
    refine ⟨fun h => by rw [hstored h]; rfl, fun h => ⟨s.draws + j, Nat.le_add_right _ _, ?_, by rw [hdrawn h]⟩⟩
    obtain ⟨hb, -⟩ := h
    have hdraws : (hostReadWindow (s.setInputs es) (u32 a) n).draws = s.draws + n := by
      rw [hostReadWindow_eq]
      exact if_pos hb
    omega

/-! ### OUT after a reset -/

/-- Settles O49: reset draws the abandoned command's OUT, from the first of its bytes inside the window. -/
theorem resetLeavesAbandonedOutFree : Obligations.ResetLeavesAbandonedOutFree := by
  intro s es hi hw
  refine ⟨_, (clipToWindow s.platform (runningOut s)).lo, step_reset hi, fun b hb hlo hhi => ?_⟩
  obtain ⟨hle, -, hread⟩ := readByte_drawSpan_inside (s := s.setInputs es) hw
    (inSpan_runningOut_iff.mpr (show RunningOutByte (s.setInputs es) b from hb)) ⟨hlo, hhi⟩
  exact ⟨hle, hread⟩

end Sys2Proof.Proofs
end

section
/-! PROOFS. Runs of steps: the engine's turn (R36), a write of an operand register around it (R35, R118), completion of
a started command (R121), and polling (R118). -/

namespace Sys2Proof.Proofs

open Sys2Proof Sys2Proof.Machine Sys2Proof.Safety Sys2Proof.Stated

/-! ### The engine's turn -/

/-- Settles O31: the turn is exec of the command in BUSY, and nothing in IDLE. -/
theorem stepRunsDecodedCommand : Obligations.StepRunsDecodedCommand := by
  refine ⟨fun s i ht hd => ?_, fun s i hb hi hd => ?_, fun s es hb hi => ?_, fun s hb hi => ?_⟩
  · rw [step_of_engineTurn ht]
    obtain ⟨hb, -⟩ := ht
    exact engineStep_ok (s := turned s) hb hd
  · rw [step_nil hi, engineStep_ok hb hd]
  · rw [step_engine hi]
    simp [engineStep, hb, State.setInputs]
  · rw [step_nil hi]
    simp [engineStep, hb]

/-- A table word that is a command is what the decoder answers for it (R58). -/
theorem decode_of_decodeTableWord {w : Nat} {i : Instr} (h : decodeTableWord 32 w = some i) :
    decode (BitVec.ofNat 32 w) = .ok i := by
  have hw : BitVec.ofNat 32 (w % 2 ^ 32) = BitVec.ofNat 32 w := BitVec.eq_of_toNat_eq (by simp)
  rw [decodeTableWord, if_neg (by decide), hw] at h
  split at h <;> cases h
  assumption

/-- Settles O32: a placed word is started with the engine's turn next, and that turn runs it. -/
theorem placedWordRunsNext : Obligations.PlacedWordRunsNext := by
  intro s w i h
  have hw : BitVec.ofNat 32 (w % 2 ^ 32) = BitVec.ofNat 32 w := BitVec.eq_of_toNat_eq (by simp)
  rw [State.withFetchWord, loadCommand, hw, step_engine rfl]
  exact engineStep_ok (s := ((startCommand s _).setInputs _).setInputs s.inputs) rfl (decode_of_decodeTableWord h)

/-! ### An operand write around the engine's turn -/

/-- Changing a state by g is carried through the engine's turn when every command carries it and the running word
stays. -/
theorem engineStep_ignored {g : State → State} (hs : IgnoredByScalars g) (hk : IgnoredByKernels g)
    {s t : State} (hb : (g s).status.busy = s.status.busy) (hl : (g s).latched.cmd = s.latched.cmd)
    (h : engineStep s = .next t) : engineStep (g s) = .next (g t) := by
  unfold engineStep at h ⊢
  rw [hb, hl]
  split_ifs at h ⊢
  · cases hd : decode s.latched.cmd <;> simp only [hd] at h ⊢
    case ok i => exact exec_ignored hs hk h
    all_goals
      cases h
      rw [hk.complete]
  · cases h
    rfl

/-- The engine's turn does not look at the schedule (R36). -/
theorem engineStep_setInputs {s t : State} (h : engineStep s = .next t) (es : List Event) :
    engineStep (s.setInputs es) = .next (t.setInputs es) :=
  engineStep_ignored (g := fun u => u.setInputs es) (by constructor <;> intros <;> rfl)
    (by constructor <;> intros <;> rfl) rfl rfl h

/-- The operand registers one by one (R28 to R31). -/
theorem operandReg_cases {r : Reg} (h : r ∈ [Reg.src, .dst, .len, .opa, .opb]) :
    r = .src ∨ r = .dst ∨ r = .len ∨ r = .opa ∨ r = .opb := by simpa using h

/-- A write of an operand register does not touch the schedule. -/
theorem writeReg_setInputs {r : Reg} (h : r ∈ [Reg.src, .dst, .len, .opa, .opb]) (s : State) (v : Word)
    (es : List Event) : (writeReg s v r).inputs = s.inputs ∧
      (writeReg s v r).setInputs es = writeReg (s.setInputs es) v r := by
  rcases operandReg_cases h with rfl | rfl | rfl | rfl | rfl <;> exact ⟨rfl, rfl⟩

/-- The engine's turn does not look at a live operand register (R35, R59). -/
theorem engineStep_writeReg {s t : State} (h : engineStep s = .next t) {r : Reg}
    (hr : r ∈ [Reg.src, .dst, .len, .opa, .opb]) (v : Word) :
    engineStep (writeReg s v r) = .next (writeReg t v r) := by
  rcases operandReg_cases hr with rfl | rfl | rfl | rfl | rfl <;>
    exact engineStep_ignored (g := fun u => writeReg u v _) (by constructor <;> intros <;> rfl)
      (by constructor <;> intros <;> rfl) rfl rfl h

/-- One step of a run, then the rest of it. -/
theorem run_succ_of_step {s t : State} (h : step s = .next t) (k : Nat) : run (k + 1) s = run k t :=
  run_succ Sys2Proof.core k h

/-- Settles O54: with t the engine's step without the write, both orders end in t with the write in it. -/
theorem operandWriteWhileBusyCommutes : Obligations.OperandWriteWhileBusyCommutes := by
  intro s r v es hp hb hr
  obtain ⟨t, ht, frame⟩ := engineStep_busy (s := s.setInputs es) hb
  refine ⟨writeReg t v r, ?before, ?after⟩
  case before =>
    have hwrite : step { s with inputs := scriptWr s.platform r v :: .engine :: es } =
        .next (writeReg (s.setInputs (.engine :: es)) v r) :=
      step_scriptWr (s := { s with inputs := scriptWr s.platform r v :: .engine :: es }) hp rfl
    obtain ⟨hnext, hrest⟩ := writeReg_setInputs hr (s.setInputs (.engine :: es)) v es
    have hturn : step (writeReg (s.setInputs (.engine :: es)) v r) = .next (writeReg t v r) := by
      rw [step_engine hnext, hrest]
      exact engineStep_writeReg ht hr v
    rw [run_succ_of_step hwrite, run_succ_of_step hturn]
    rfl
  case after =>
    have hturn : step { s with inputs := .engine :: scriptWr s.platform r v :: es } =
        .next (t.setInputs (scriptWr s.platform r v :: es)) :=
      (step_engine rfl).trans (engineStep_setInputs ht _)
    have hplatform : t.platform = s.platform := frame.platform
    have hwrite : step (t.setInputs (scriptWr s.platform r v :: es)) = .next (writeReg (t.setInputs es) v r) :=
      step_scriptWr (s := t.setInputs _) (hplatform ▸ hp) (by rw [← hplatform]; rfl)
    have hrest : t.setInputs es = t := by
      have hinputs : t.inputs = es := frame.inputs
      rw [← hinputs]
      rfl
    rw [run_succ_of_step hturn, run_succ_of_step hwrite, hrest]
    rfl

/-! ### One step of a schedule -/

/-- A step takes the first event off the schedule. -/
theorem inputs_step {s t : State} {e : Event} {es : List Event} (hi : s.inputs = e :: es) (h : step s = .next t) :
    t.inputs = es := by
  rcases step_cases h with ⟨es', hi', he⟩ | ⟨es', a, n, off, hi', -, rfl⟩ | ⟨es', a, n, hi', -, rfl⟩ |
    ⟨es', a, n, v, off, hi', -, rfl⟩ | ⟨es', a, n, v, hi', -, rfl⟩ | ⟨es', hi', rfl⟩
  all_goals
    rw [hi] at hi'
  case inl =>
    rcases hi' with ⟨hnil, -⟩ | hi'
    · cases hnil
    cases hi'
    rcases commandFrame_of_engineStep he with ⟨-, rfl⟩ | ⟨-, frame⟩
    · rfl
    · exact frame.inputs
  all_goals cases hi'
  · rfl
  · exact hostReadWindow_inputs _ _ _
  · rcases writeOffset_cases (s.setInputs es) off (BitVec.ofNat 32 v) with
      e | e | e | e | e | e | ⟨-, e⟩ | ⟨-, e⟩ <;> rw [e] <;> rfl
  · rfl
  · rfl

/-- A host access leaves STATUS, CMD and the latched record, but for a write to CMD (R19, R36). -/
theorem step_host_cases {s t : State} {act : HostAction} {es : List Event} (hi : s.inputs = .host act :: es)
    (h : step s = .next t) :
    (t.status = s.status ∧ t.cmd = s.cmd ∧ t.latched = s.latched) ∨
      WritesCmd s.platform (.host act) ∧ ∃ v, t = writeOffset (s.setInputs es) 0x00 v := by
  rcases step_cases h with ⟨es', hi', -⟩ | ⟨es', a, n, off, hi', -, rfl⟩ | ⟨es', a, n, hi', -, rfl⟩ |
    ⟨es', a, n, v, off, hi', htarget, rfl⟩ | ⟨es', a, n, v, hi', -, rfl⟩ | ⟨es', hi', rfl⟩
  all_goals
    rw [hi] at hi'
  case inl =>
    rcases hi' with ⟨hnil, -⟩ | hi'
    · cases hnil
    · cases hi'
  all_goals cases hi'
  · exact .inl ⟨rfl, rfl, rfl⟩
  · exact .inl ⟨hostReadWindow_status _ _ _, hostReadWindow_cmd _ _ _, hostReadWindow_latched _ _ _⟩
  · by_cases hoff : off = 0x00
    · subst hoff
      obtain ⟨rfl, ha, -, -⟩ := targetOf_eq_register htarget
      exact .inr ⟨⟨a, v, rfl, ha⟩, _, rfl⟩
    · exact .inl (writeOffset_not_cmd _ hoff _)
  · exact .inl ⟨rfl, rfl, rfl⟩

/-- A host access while BUSY leaves the command running (R23, R26). -/
theorem busy_step_host {s t : State} {act : HostAction} {es : List Event} (hb : s.status.busy = true)
    (hi : s.inputs = .host act :: es) (h : step s = .next t) : t.status.busy = true := by
  rcases step_host_cases hi h with ⟨hst, -⟩ | ⟨-, v, rfl⟩
  · rw [hst, hb]
  · rw [writeOffset_cmd, State.setInputs_status, if_pos hb]
    exact hb

/-! ### A started command completes -/

/-- Settles O55: each host access leaves the command running and the schedule one shorter, and the engine's turn, at
the latest with nothing left, completes it. -/
theorem startedCommandCompletes : Obligations.StartedCommandCompletes := by
  intro s
  generalize hi : s.inputs = es
  induction es generalizing s with
  | nil =>
    intro hb _
    obtain ⟨t, ht, frame⟩ := engineStep_busy hb
    refine ⟨1, t, Nat.le_refl _, run_succ_of_step ((step_nil hi).trans ht) 0, ?_⟩
    rw [frame.status]
    exact ⟨rfl, rfl⟩
  | cons e es ih =>
    intro hb hlawful
    obtain ⟨hreset, he⟩ := hlawful e List.mem_cons_self
    cases e with
    | reset => exact absurd rfl hreset
    | engine =>
      obtain ⟨t, ht, frame⟩ := engineStep_busy (s := s.setInputs es) hb
      refine ⟨1, t, Nat.le_add_left _ _, run_succ_of_step ((step_engine hi).trans ht) 0, ?_⟩
      rw [frame.status]
      exact ⟨rfl, rfl⟩
    | host act =>
      obtain ⟨t, ht⟩ := hostStep_lawful (s := s.setInputs es) he
      replace ht : step s = .next t := (step_host hi).trans ht
      obtain ⟨k, u, hk, hu, hidle, hdone⟩ := ih t (inputs_step hi ht) (busy_step_host hb hi ht) fun e' he' => by
        rw [platform_step ht]
        exact hlawful e' (List.mem_cons_of_mem _ he')
      exact ⟨k + 1, u, Nat.succ_le_succ hk, (run_succ_of_step ht k).trans hu, hidle, hdone⟩

/-! ### Polling -/

/-- Word v was written to CMD in IDLE, and nothing but the engine, if it ran, has touched STATUS, CMD or L since: BUSY
is shown until the engine ran, DONE from then on (R36, R107). -/
structure Started (v : Word) (ran : Bool) (s : State) : Prop where
  cmd : s.cmd = v
  latched : s.latched.cmd = v
  busy : s.status.busy = !ran
  done : s.status.done = ran

/-- The engine's turn completes a started command, and leaves a completed one. -/
theorem started_engineStep {v : Word} {ran : Bool} {s t : State} (h : Started v ran s)
    (ht : engineStep s = .next t) : Started v true t := by
  obtain ⟨hcmd, hlatched, hbusy, hdone⟩ := h
  rcases commandFrame_of_engineStep ht with ⟨hidle, rfl⟩ | ⟨-, frame⟩
  · obtain rfl : ran = true := by simpa [hidle] using hbusy
    exact ⟨hcmd, hlatched, hbusy, hdone⟩
  · exact ⟨frame.cmd.trans hcmd, (congrArg _ frame.latched).trans hlatched, by rw [frame.status]; rfl,
      by rw [frame.status]; rfl⟩

/-- A lawful event other than a reset and a CMD write keeps what polling sees, but for the engine's turn (R36). -/
theorem started_step {v : Word} {ran : Bool} {s : State} (h : Started v ran s) {e : Event} {es : List Event}
    (hi : s.inputs = e :: es) (he : LawfulEvent s.platform e) (hr : e ≠ .reset) (hw : ¬ WritesCmd s.platform e) :
    ∃ t, step s = .next t ∧ Started v (ran || decide (.engine = e)) t := by
  obtain ⟨t, ht⟩ := lawfulStepNeverStops s fun e' he' => by
    rw [hi] at he'
    cases he'
    exact he
  refine ⟨t, ht, ?_⟩
  obtain ⟨hcmd, hlatched, hbusy, hdone⟩ := h
  cases e with
  | reset => exact absurd rfl hr
  | engine =>
    rw [step_engine hi] at ht
    rw [decide_eq_true rfl, Bool.or_true]
    exact started_engineStep (s := s.setInputs es) ⟨hcmd, hlatched, hbusy, hdone⟩ ht
  | host act =>
    rcases step_host_cases hi ht with ⟨hst, hc, hl⟩ | ⟨hwrites, -⟩
    · rw [decide_eq_false nofun, Bool.or_false]
      exact ⟨hc.trans hcmd, (congrArg _ hl).trans hlatched, hst ▸ hbusy, hst ▸ hdone⟩
    · exact absurd hwrites hw

/-- A run of such events keeps what polling sees, and ends with the rest of the schedule. -/
theorem started_run {v : Word} {ran : Bool} {s : State} {between rest : List Event} (h : Started v ran s)
    (hi : s.inputs = between ++ rest)
    (hb : ∀ e ∈ between, LawfulEvent s.platform e ∧ e ≠ .reset ∧ ¬ WritesCmd s.platform e) :
    ∃ t, run between.length s = .next t ∧ t.inputs = rest ∧ t.platform = s.platform ∧
      Started v (ran || decide (.engine ∈ between)) t := by
  induction between generalizing s ran with
  | nil => exact ⟨s, rfl, hi, rfl, by simpa using h⟩
  | cons e es ih =>
    obtain ⟨he, hr, hw⟩ := hb e List.mem_cons_self
    obtain ⟨t, ht, hstarted⟩ := started_step h hi he hr hw
    have hplatform := platform_step ht
    obtain ⟨u, hu, hrest, hsame, hend⟩ := ih hstarted (inputs_step hi ht) fun e' he' => by
      rw [hplatform]
      exact hb e' (List.mem_cons_of_mem _ he')
    refine ⟨u, (run_succ_of_step ht _).trans hu, hrest, hsame.trans hplatform, ?_⟩
    simpa only [List.mem_cons, Bool.decide_or, Bool.or_assoc] using hend

/-- A run of m + 1 steps that reaches a state starts with a step that answers one. -/
theorem step_of_run_succ (M : Host.Core) {m : Nat} {s t : M.State} (h : M.run (m + 1) s = .next t) :
    ∃ u, M.step s = .next u ∧ M.run m u = .next t := by
  rw [Host.Core.run] at h
  split at h
  case h_1 u hu => exact ⟨u, hu, h⟩
  all_goals cases h

/-- A run of m + k steps is one of k steps from where m steps lead. -/
theorem run_add (M : Host.Core) {m : Nat} {s t : M.State} (h : M.run m s = .next t) (k : Nat) :
    M.run (m + k) s = M.run k t := by
  induction m generalizing s with
  | zero =>
    cases h
    rw [Nat.zero_add]
  | succ m ih =>
    obtain ⟨u, hu, hrest⟩ := step_of_run_succ M h
    rw [Nat.succ_add, run_succ M _ hu, ih hrest]

/-- The start of a poll: BUSY alone is shown, and CMD and L are the word written (R36). -/
theorem started_startCommand (s : State) (v : Word) : Started v false (startCommand s v) := ⟨rfl, rfl, rfl, rfl⟩

/-- Settles O56: the start shows BUSY alone, the events between keep that but for the engine's turn, and the read
answers STATUS's word. -/
theorem pollAfterStartNeverStale : Obligations.PollAfterStartNeverStale := by
  intro s v between es hp hidle hb
  generalize hrest : between ++ scriptRd s.platform .status :: es = rest
  have hstart : step (s.setInputs (scriptWr s.platform .cmd v :: rest)) =
      .next (startCommand (s.setInputs rest) v) := by
    refine (step_scriptWr (s := s.setInputs (scriptWr s.platform .cmd v :: rest)) hp rfl).trans ?_
    exact congrArg _ (if_neg (by simp [hidle]))
  obtain ⟨t, ht, hinputs, hplatform, hcmd, hlatched, hbusy, hdone⟩ :=
    started_run (started_startCommand (s.setInputs rest) v) hrest.symm hb
  have hread := step_scriptRd (s := t) (r := .status) (es := es) (hplatform ▸ hp) (by rw [hinputs, hplatform]; rfl)
  obtain ⟨bit0, bit1, -⟩ := statusWord_fields t.status
  refine ⟨(t.setInputs es).pushReply (.reg (statusWord t.status)), statusWord t.status, t.replies, ?_, rfl, rfl,
    hcmd, hlatched, fun hno => ?_, fun hyes => ?_⟩
  · exact (run_succ_of_step hstart _).trans ((run_add Sys2Proof.core ht 1).trans (run_succ_of_step hread 0))
  · rw [bit0, bit1, hbusy, hdone]
    simp [hno]
  · rw [bit0, bit1, hbusy, hdone]
    simp [hyes]

end Sys2Proof.Proofs
end
